-- ==== Sys2Proof/Word.lean ====
section
/-! DEFINITION. The word types of the DCRFE: the 32-bit word of the host port and the 8-bit byte of the frame. -/

namespace Sys2Proof

/-- A word of the host port and of the command set (R62, R90). -/
abbrev Word := BitVec 32

/-- A byte of the frame buffer (R23). -/
abbrev Byte := BitVec 8

/-- A word index of the host register space, 0 to 63 (R62). -/
abbrev WordIndex := BitVec 6

end Sys2Proof
end

