-- ==== Sys2Proof/Config.lean ====
section
/-! DEFINITION. The configuration of the DCRFE: the fixed constants of R8 and R9, the parameters of R10 that the
source leaves open, the constraints R10 puts on them, and the spec's default binding. -/

namespace Sys2Proof

/-- `PRE_A`, preamble pattern "A" (R8). -/
def Config.preA : BitVec 8 := 0x53#8

/-- `JMA_MT`, the message type of the JMA branch (R8). -/
def Config.jmaMt : BitVec 6 := 43#6

/-- `FRAME_BYTES`, the frame length in bytes (R8). -/
def Config.frameBytes : Nat := 32

/-- `PROT_BITS`, the number of protected bits (R8). -/
def Config.protBits : Nat := 226

/-- `TRAILER_OFF`, the bit offset of the checksum trailer (R8, R9). -/
def Config.trailerOff : Nat := 226

/-- `TRAILER_W`, the width of the checksum trailer (R8, R9). -/
def Config.trailerW : Nat := 24

/-- `EXT_MAX`, the widest extractable field (R8). -/
def Config.extMax : Nat := 64

/-- `DCRFE_BASE`, the block's base address in a system (R219, D3): open, read by no rule of the block. -/
opaque Config.dcrfeBase : Nat

/-- `CMD_LATENCY`, clock cycles from acceptance to completion of the n-th command (R10, R246, D31): open, and "no rule
depends on any latency value". -/
opaque Config.cmdLatency : Nat → Nat

/-- The parameters of R10: fixed for the life of a block, written by no access (R34). A step takes them as an argument;
they ride in its one argument, the state (log entry 2). -/
structure Params where
  /-- `CRC_POLY`, the 25-bit generator constant (R141). -/
  crcPoly : BitVec 25
  /-- `PRE_B`, preamble pattern "B" (R172). -/
  preB : BitVec 8
  /-- `RC_MAX`, "Maximum" (R181). -/
  rcMax : BitVec 3
  /-- `RC_PRI`, "Priority" (R181). -/
  rcPri : BitVec 3
  /-- `RC_REG`, "Regular" (R181). -/
  rcReg : BitVec 3
  /-- `RC_TRN`, "TrainingOrTest" (R181). -/
  rcTrn : BitVec 3
  /-- `SUPPORTED_VN`, the set of supported versions (R175); only membership is ever asked (log entry 16). -/
  supportedVn : List (BitVec 6)
  deriving DecidableEq, Repr

/-- The four classification codes (R173). -/
def Params.rcCodes (P : Params) : List (BitVec 3) := [P.rcMax, P.rcPri, P.rcReg, P.rcTrn]

/-- The constraints R10 puts on a binding: bit 24 of the generator is 1, `PRE_B` differs from `PRE_A`, the four
classification codes are distinct and none is 0, and version 0 is not supported. -/
abbrev Params.WF (P : Params) : Prop :=
  P.crcPoly.getLsbD 24 = true ∧ P.preB ≠ Config.preA ∧ P.rcCodes.Nodup ∧ 0#3 ∉ P.rcCodes ∧ 0#6 ∉ P.supportedVn

/-- The default binding of R10, which the spec marks as general knowledge (PRESUMED, log entry 3). -/
def Params.default : Params where
  crcPoly := 0x1864CFB#25
  preB := 0x9A#8
  rcMax := 1#3
  rcPri := 2#3
  rcReg := 3#3
  rcTrn := 7#3
  supportedVn := [1#6]

end Sys2Proof
end

