-- ==== Sys2Proof/Syntax.lean ====
section
/-! DEFINITION. The command set of the DCRFE, version 1: one constructor per row of the opcode map of R96, with the
operand fields of R93 and R94 at their encoded widths. -/

namespace Sys2Proof

/-- A command (R2, R96). -/
inductive Instr where
  /-- `NOP` (R200). -/
  | nop
  /-- `EXT off, cnt` (R124). -/
  | ext (off : BitVec 8) (cnt : BitVec 7)
  /-- `CRC start, nbits` (R146). -/
  | crc (start : BitVec 8) (nbits : BitVec 9)
  /-- `CHK start, nbits` (R147). -/
  | chk (start : BitVec 8) (nbits : BitVec 9)
  /-- `FVAL` (R178). -/
  | fval
  /-- `PARSE` (R179). -/
  | parse
  deriving DecidableEq, Repr

end Sys2Proof
end

