-- ==== Sys2Proof/WellFormed.lean ====
section
/-! DEFINITION. Which commands have an encoding. -/

namespace Sys2Proof

/-- A command is well formed when R98 gives its word no objection: the one static restriction beyond the field widths is
`CNT <= 64` of `EXT`; `CRC` and `CHK` "have no static range restriction". -/
def Instr.wf : Instr → Bool
  | .nop => true
  | .ext _ cnt => cnt.toNat ≤ Config.extMax
  | .crc _ _ => true
  | .chk _ _ => true
  | .fval => true
  | .parse => true

end Sys2Proof
end

