-- ==== Sys2Proof/Decode.lean ====
section
/-! DEFINITION. The decoder of R99, total on 32-bit words and rejecting by name, then the encoder of R96, the opcode
table of R96 as data, and the host's table-word reader. -/

namespace Sys2Proof

/-- Why a word is illegal (R97, R98). -/
inductive IllegalWord where
  /-- The opcode is `0x6` to `0xF` (R97). -/
  | reservedOpcode
  /-- A bit of the must-be-zero field `Z28`, `Z13` or `Z11` is 1 (R98). -/
  | mustBeZero
  /-- `EXT` with `CNT > 64` (R98). -/
  | widthOver64
  deriving DecidableEq, Repr

/-- What a word decodes to. -/
inductive Decoded where
  | legal (i : Instr)
  | illegal (why : IllegalWord)
  deriving DecidableEq, Repr

/-- `OP = w[31:28]` (R91). -/
def opField (w : Word) : BitVec 4 := w.extractLsb' 28 4

/-- `OFF = w[27:20]` (R95). -/
def offField (w : Word) : BitVec 8 := w.extractLsb' 20 8

/-- `CNT = w[19:13]` (R95). -/
def cntField (w : Word) : BitVec 7 := w.extractLsb' 13 7

/-- `START = w[27:20]` (R95). -/
def startField (w : Word) : BitVec 8 := w.extractLsb' 20 8

/-- `NBITS = w[19:11]` (R95). -/
def nbitsField (w : Word) : BitVec 9 := w.extractLsb' 11 9

/-- Format N (R92): `Z28 = w[27:0]` must be 0. -/
def decodeN (w : Word) (i : Instr) : Decoded :=
  if w.extractLsb' 0 28 = 0#28 then .legal i else .illegal .mustBeZero

/-- Format X (R93): `Z13 = w[12:0]` must be 0 and `CNT` at most 64. -/
def decodeX (w : Word) : Decoded :=
  if w.extractLsb' 0 13 = 0#13 then
    if (cntField w).toNat ≤ Config.extMax then .legal (.ext (offField w) (cntField w)) else .illegal .widthOver64
  else .illegal .mustBeZero

/-- Format R (R94): `Z11 = w[10:0]` must be 0. -/
def decodeR (w : Word) (i : BitVec 8 → BitVec 9 → Instr) : Decoded :=
  if w.extractLsb' 0 11 = 0#11 then .legal (i (startField w) (nbitsField w)) else .illegal .mustBeZero

/-- `decode(w)` (R99): the opcode alone selects the format and the command (R91). -/
def decode (w : Word) : Decoded :=
  match (opField w).toNat with
  | 0 => decodeN w .nop
  | 1 => decodeX w
  | 2 => decodeR w .crc
  | 3 => decodeR w .chk
  | 4 => decodeN w .fval
  | 5 => decodeN w .parse
  | _ => .illegal .reservedOpcode

/-- The opcode of a command (R96). -/
def opcode : Instr → BitVec 4
  | .nop => 0x0#4
  | .ext _ _ => 0x1#4
  | .crc _ _ => 0x2#4
  | .chk _ _ => 0x3#4
  | .fval => 0x4#4
  | .parse => 0x5#4

/-- A word of format N (R92): `OP`, then `Z28` zero. -/
def formatN (op : BitVec 4) : Word := op ++ 0#28

/-- A word of format X (R93): `OP`, `OFF`, `CNT`, then `Z13` zero. -/
def formatX (op : BitVec 4) (off : BitVec 8) (cnt : BitVec 7) : Word := op ++ off ++ cnt ++ 0#13

/-- A word of format R (R94): `OP`, `START`, `NBITS`, then `Z11` zero. -/
def formatR (op : BitVec 4) (start : BitVec 8) (nbits : BitVec 9) : Word := op ++ start ++ nbits ++ 0#11

/-- The word of a command (R96), by its opcode and its format. -/
def encode (i : Instr) : Word :=
  match i with
  | .nop => formatN (opcode i)
  | .ext off cnt => formatX (opcode i) off cnt
  | .crc start nbits => formatR (opcode i) start nbits
  | .chk start nbits => formatR (opcode i) start nbits
  | .fval => formatN (opcode i)
  | .parse => formatN (opcode i)

/-- A row of the opcode map. -/
structure OpcodeRow where
  mnemonic : String
  mask : Word
  pattern : Word
  deriving DecidableEq, Repr

/-- The legal rows of the opcode map of R96, over the whole word. -/
def opcodeRows : List OpcodeRow :=
  [⟨"NOP", 0xFFFFFFFF#32, 0x00000000#32⟩,
   ⟨"EXT", 0xF0001FFF#32, 0x10000000#32⟩,
   ⟨"CRC", 0xF00007FF#32, 0x20000000#32⟩,
   ⟨"CHK", 0xF00007FF#32, 0x30000000#32⟩,
   ⟨"FVAL", 0xFFFFFFFF#32, 0x40000000#32⟩,
   ⟨"PARSE", 0xFFFFFFFF#32, 0x50000000#32⟩]

/-- Whether a word falls under a row of the opcode map. -/
def OpcodeRow.covers (r : OpcodeRow) (w : Word) : Bool := w &&& r.mask == r.pattern

/-- The row a command stands for. -/
def rowName : Instr → String
  | .nop => "NOP"
  | .ext _ _ => "EXT"
  | .crc _ _ => "CRC"
  | .chk _ _ => "CHK"
  | .fval => "FVAL"
  | .parse => "PARSE"

/-- The command in the low `nbits` bits of `w`. A command is one 32-bit word (R90), so a value that needs more than 32
bits is none (log entry 13). -/
def decodeTableWord (nbits w : Nat) : Option Instr :=
  if w % 2 ^ nbits < 2 ^ 32 then
    match decode (BitVec.ofNat 32 (w % 2 ^ nbits)) with
    | .legal i => some i
    | .illegal _ => none
  else none

end Sys2Proof
end

