-- ==== Sys2Proof/Machine/State.lean ====
section
/-! DEFINITION. The state of the DCRFE as plain data: the tuple of R35, the parameters of R10, and the model's own turns
and notebook of the host; and the reset state of R241. -/

namespace Sys2Proof.Machine

/-- The verdict codes of R210; codes 6..15 are "never written" (log entry 14). -/
inductive Verdict where
  | ok
  | invalidLength
  | invalidPreamble
  | invalidClassification
  | checksumError
  | unsupportedVersion
  deriving DecidableEq, Repr

/-- The fault causes of R211; codes 4..15 are "never written" (log entry 14). -/
inductive FaultCause where
  | none
  | bounds
  | illegal
  | overrun
  deriving DecidableEq, Repr

/-- The decoder family a frame belongs to (R174). -/
inductive Route where
  | none
  | base
  | jma
  | other
  deriving DecidableEq, Repr

/-- The header of the last validated frame (R32). -/
structure Hdr where
  pre : BitVec 8
  mt : BitVec 6
  rc : BitVec 3
  vn : BitVec 6
  route : Route
  valid : Bool
  deriving DecidableEq, Repr

/-- The frame buffer: (byte number, byte) pairs, strictly rising, no entry 0; an unlisted byte reads 0, its reset value
(R23, R241; log entry 8). -/
abbrev Memory := List Host.Cell

/-- The registers of the map of R63, by name; the FRAME words by their number. -/
inductive Reg where
  | cmd
  | status
  | fault
  | faultInfo
  | flen
  | resultHi
  | resultLo
  | crcCalc
  | crcRecv
  | hdr
  | frame (j : Fin 8)
  | unmapped
  deriving DecidableEq, Repr

/-- The turns the agents can take (R22, R72, R240; log entry 1). -/
inductive Event where
  /-- The host reads word index `k` (R62). -/
  | read (k : WordIndex)
  /-- The host writes `v` to word index `k` (R62). -/
  | write (k : WordIndex) (v : Word)
  /-- The host's `WAIT`: it polls `STATUS` until `BUSY` reads 0 (R102). -/
  | wait
  /-- The engine gets the turn (R72). -/
  | engine
  /-- The reset input is asserted (R240). -/
  | reset
  deriving DecidableEq, Repr

/-- A read the host noted: the word index and the word returned (R102 "the value is noted as the read's result"). -/
structure ReadRecord where
  index : WordIndex
  value : Word
  deriving DecidableEq, Repr

/-- The state: R35's tuple, then what the model carries beside it. `BUSY` is not stored (R26); `CMD` has no storage
(R33); the CRC shift register does not survive a command (R35). -/
structure State where
  /-- `FRAME` (R23). -/
  frame : Memory
  /-- `FLEN` (R24). -/
  flen : BitVec 16
  /-- `PENDING` (R25). -/
  pending : Option Word
  /-- `STATUS.VERDICT` (R26). -/
  verdict : Verdict
  /-- `STATUS.LASTOP` (R26). -/
  lastop : BitVec 4
  /-- `STATUS.FAULTED` (R26). -/
  faulted : Bool
  /-- `FAULT.CAUSE` (R27). -/
  faultCause : FaultCause
  /-- `FAULT_INFO` (R28). -/
  faultInfo : Word
  /-- `RESULT` (R29). -/
  result : BitVec 64
  /-- `CRC_CALC` (R30). -/
  crcCalc : BitVec 24
  /-- `CRC_RECV` (R31). -/
  crcRecv : BitVec 24
  /-- `HDR` (R32). -/
  hdr : Hdr
  /-- The parameters of R10, written by no step (log entry 2). -/
  params : Params
  /-- The model's own: the turns to come, oldest first (log entry 1). -/
  script : List Event
  /-- The model's own: the host's noted reads, latest first (log entry 6). -/
  reads : List ReadRecord
  deriving DecidableEq, Repr

/-- Why the machine stops with a fault. The faults of R211 are no such stop: each is a next state with `FAULT` written. -/
inductive Fault where
  /-- Raised by a step of a faulted block whose script is used up: "a fault outcome that is never final" (R215; log entry
  4). Safe: the model stops where the hardware only holds its state. -/
  | blockFaulted
  deriving DecidableEq, Repr

/-- Why a step has no meaning. -/
inductive Refusal where
  /-- Raised by `exec` for a command without a meaning; every command has one. Safe. -/
  | notModelled (mnemonic : String)
  /-- Raised by the engine when the pending word is illegal, which R99 rules out (log entry 5). Safe: no state that keeps
  the invariant reaches it. -/
  | pendingIllegal (w : Word)
  deriving DecidableEq, Repr

/-- `HDR = 0` (R32, R177). -/
def Hdr.zero : Hdr where
  pre := 0#8
  mt := 0#6
  rc := 0#3
  vn := 0#6
  route := .none
  valid := false

/-- The state right after reset (R241), with the default binding of the parameters (log entry 3) and no turn to come. -/
def State.reset : State where
  frame := []
  flen := 0#16
  pending := none
  verdict := .ok
  lastop := 0#4
  faulted := false
  faultCause := .none
  faultInfo := 0#32
  result := 0#64
  crcCalc := 0#24
  crcRecv := 0#24
  hdr := Hdr.zero
  params := Params.default
  script := []
  reads := []

end Sys2Proof.Machine
end

