-- ==== Sys2Proof/Machine/Ops.lean ====
section
/-! DEFINITION. The named operations over the frame buffer and the registers: byte reads and writes in canonical form,
the FRAME words of R64, fault entry (R212), the reset of the block (R240), and the bookkeeping of turns and reads. -/

namespace Sys2Proof.Machine

/-- What a byte of the frame that is not listed reads as: its reset value (R23, R241). -/
def unlistedByte : Byte := 0#8

/-- The canonical form: addresses strictly rising, all below 32 (R23), no entry equal to what an unlisted byte reads as. -/
abbrev Memory.wf (m : Memory) : Prop :=
  m.Pairwise (fun c d => c.1 < d.1) ∧ ∀ c ∈ m, c.1 < Config.frameBytes ∧ c.2 ≠ unlistedByte

/-- `FRAME[a]`. -/
def Memory.read : Memory → Nat → Byte
  | [], _ => unlistedByte
  | (b, x) :: rest, a => if a = b then x else Memory.read rest a

/-- `x` at `a`, put before `rest` unless an unlisted byte reads as `x`. -/
def Memory.place (a : Nat) (x : Byte) (rest : Memory) : Memory :=
  if x = unlistedByte then rest else (a, x) :: rest

/-- `FRAME[a] <- x`, in canonical form. -/
def Memory.write : Memory → Nat → Byte → Memory
  | [], a, x => Memory.place a x []
  | (b, y) :: rest, a, x =>
    if a < b then Memory.place a x ((b, y) :: rest)
    else if a = b then Memory.place a x rest
    else (b, y) :: Memory.write rest a x

/-- `FRAME[4j..4j+3] <- bytes of v`, the lowest-numbered byte from bits 31..24 (R64). -/
def Memory.writeWord (m : Memory) (j : Nat) (v : Word) : Memory :=
  (((m.write (4 * j) (v.extractLsb' 24 8)).write (4 * j + 1) (v.extractLsb' 16 8)).write (4 * j + 2)
    (v.extractLsb' 8 8)).write (4 * j + 3) (v.extractLsb' 0 8)

/-- `{FRAME[4j], FRAME[4j+1], FRAME[4j+2], FRAME[4j+3]}` (R64). -/
def Memory.readWord (m : Memory) (j : Nat) : Word :=
  m.read (4 * j) ++ m.read (4 * j + 1) ++ m.read (4 * j + 2) ++ m.read (4 * j + 3)

/-- `raise Fault(cause, info)` (R212), performed only when `FAULTED = 0`: the four writes, and nothing else changes. -/
def raiseFault (cause : FaultCause) (info : Word) (s : State) : State :=
  { s with faultCause := cause, faultInfo := info, faulted := true, pending := none }

/-- The reset input (R240): every piece of state of R35 at its reset value. The parameters are fixed for the life of the
block (R34); the turns to come and the host's notes are no state of the block (log entry 12). -/
def resetBlock (s : State) : State :=
  { State.reset with params := s.params, script := s.script, reads := s.reads }

/-- The turns still to come once one has been taken. -/
def setScript (turns : List Event) (s : State) : State := { s with script := turns }

/-- The host notes what a read returned (R102). -/
def noteRead (k : WordIndex) (v : Word) (s : State) : State := { s with reads := ⟨k, v⟩ :: s.reads }

/-- `PENDING <- some(w)` (R71). -/
def setPending (w : Word) (s : State) : State := { s with pending := some w }

/-- `FLEN <- n` (R68). -/
def setFlen (n : BitVec 16) (s : State) : State := { s with flen := n }

/-- `FRAME[4j..4j+3] <- bytes of v` (R68). -/
def setFrameWord (j : Fin 8) (v : Word) (s : State) : State := { s with frame := s.frame.writeWord j.val v }

/-- `RESULT <- v` (R124). -/
def setResult (v : BitVec 64) (s : State) : State := { s with result := v }

/-- `CRC_CALC <- v` (R146, R147). -/
def setCrcCalc (v : BitVec 24) (s : State) : State := { s with crcCalc := v }

/-- `CRC_RECV <- v` (R147). -/
def setCrcRecv (v : BitVec 24) (s : State) : State := { s with crcRecv := v }

/-- `HDR <- h`, as one whole value (R32). -/
def setHdr (h : Hdr) (s : State) : State := { s with hdr := h }

end Sys2Proof.Machine
end

