-- ==== Sys2Proof/Machine/Operands.lean ====
section
/-! DEFINITION. The operand forms: bits and fields of the frame (R12, R121, R122), the declared length of the buffer
(R123), and the registers of the host port by word index (R63). -/

namespace Sys2Proof.Machine

/-- `FB(i)`: bit `7 - (i mod 8)` of `FRAME[i div 8]` (R12). -/
def frameBit (m : Memory) (i : Nat) : Bool := (m.read (i / 8)).getLsbD (7 - i % 8)

/-- `FrameBits(off, cnt)`: the sum over `i` in `0 .. cnt-1` of `FB(off + i) << (cnt - 1 - i)` (R121). -/
def frameBits (m : Memory) (off cnt : Nat) : Nat :=
  ((List.range cnt).map fun i => (frameBit m (off + i)).toNat <<< (cnt - 1 - i)).sum

/-- `{FRAME0, FRAME1, ..., FRAME7}`, the frame as a 256-bit big-endian number (R64, R122). -/
def frameNumber (m : Memory) : Nat :=
  (List.range 8).foldl (fun acc j => acc <<< 32 ||| (m.readWord j).toNat) 0

/-- The barrel-shifter form of a field (R122): a right shift by `256 - off - cnt` and a mask of `cnt` bits. -/
def barrelBits (m : Memory) (off cnt : Nat) : Nat :=
  frameNumber m >>> (256 - off - cnt) &&& (1 <<< cnt - 1)

/-- `BUF_BITS = 8 * min(FLEN, 32)` (R123). -/
def bufBits (s : State) : Nat := 8 * min s.flen.toNat Config.frameBytes

/-- The register at a word index (R63); every index has one, `unmapped` where the map has none (R65). -/
def regAt (k : WordIndex) : Reg :=
  match k.toNat with
  | 0 => .cmd
  | 1 => .status
  | 2 => .fault
  | 3 => .faultInfo
  | 4 => .flen
  | 5 => .resultHi
  | 6 => .resultLo
  | 7 => .crcCalc
  | 8 => .crcRecv
  | 9 => .hdr
  | n => if h : 16 ≤ n ∧ n < 24 then .frame ⟨n - 16, by omega⟩ else .unmapped

/-- The byte address `4*k` of a word index (R60, R62), as `FAULT_INFO` records it. -/
def byteAddr (k : WordIndex) : Word := k.setWidth 32 <<< 2

/-- The byte address of a word index in a system that places the block at `DCRFE_BASE` (R219, D3). -/
def platformAddr (k : WordIndex) : Nat := Config.dcrfeBase + 4 * k.toNat

/-- The word index of `CMD`, byte address `0x00` (R63). -/
def cmdIndex : WordIndex := 0#6

/-- The word index of `STATUS`, byte address `0x04` (R63). -/
def statusIndex : WordIndex := 1#6

/-- The word index of `FLEN`, byte address `0x10` (R63). -/
def flenIndex : WordIndex := 4#6

/-- The word index of `RESULT_HI`, byte address `0x14` (R63). -/
def resultHiIndex : WordIndex := 5#6

/-- The word index of `RESULT_LO`, byte address `0x18` (R63). -/
def resultLoIndex : WordIndex := 6#6

/-- The word index of `FRAMEj`, byte address `0x40 + 4*j` (R63). -/
def frameIndex (j : Fin 8) : WordIndex := 16#6 + BitVec.ofNat 6 j.val

/-- The registers whose words a pending command freezes: `CMD`, `FLEN`, `FRAMEj` (R69). -/
def frozenWhilePending : Reg → Bool
  | .cmd => true
  | .flen => true
  | .frame _ => true
  | .status => false
  | .fault => false
  | .faultInfo => false
  | .resultHi => false
  | .resultLo => false
  | .crcCalc => false
  | .crcRecv => false
  | .hdr => false
  | .unmapped => false

end Sys2Proof.Machine
end

