-- ==== Sys2Proof/Machine/Flags.lean ====
section
/-! DEFINITION. The flags: the codes of R210, R211 and R174, `BUSY` (R26), the words of STATUS, FAULT and HDR (R63), the
verdict write of R14 and the completion of a command (R72). -/

namespace Sys2Proof.Machine

/-- The numeric code of a verdict (R210). -/
def Verdict.code : Verdict → BitVec 4
  | .ok => 0#4
  | .invalidLength => 1#4
  | .invalidPreamble => 2#4
  | .invalidClassification => 3#4
  | .checksumError => 4#4
  | .unsupportedVersion => 5#4

/-- The numeric code of a fault cause (R211). -/
def FaultCause.code : FaultCause → BitVec 4
  | .none => 0#4
  | .bounds => 1#4
  | .illegal => 2#4
  | .overrun => 3#4

/-- The numeric code of a route (R174). -/
def Route.code : Route → BitVec 2
  | .none => 0#2
  | .base => 1#2
  | .jma => 2#2
  | .other => 3#2

/-- `BUSY = (PENDING != none)` (R25, R26). -/
def busy (s : State) : Bool := s.pending.isSome

/-- The word of STATUS: 3:0 `VERDICT`, 7:4 `LASTOP`, 8 `BUSY`, 9 `FAULTED`, 31:10 zero (R63). -/
def statusWord (s : State) : Word :=
  0#22 ++ BitVec.ofBool s.faulted ++ BitVec.ofBool (busy s) ++ s.lastop ++ s.verdict.code

/-- The word of FAULT: 3:0 `CAUSE`, 31:4 zero (R63). -/
def faultWord (s : State) : Word := 0#28 ++ s.faultCause.code

/-- The word of HDR: 31:24 `PRE`, 23:18 `MT`, 17:15 `RC`, 14:9 `VN`, 8:7 `ROUTE`, 6:1 zero, 0 `VALID` (R63). -/
def hdrWord (h : Hdr) : Word :=
  h.pre ++ h.mt ++ h.rc ++ h.vn ++ h.route.code ++ 0#6 ++ BitVec.ofBool h.valid

/-- `verdict(V)`: writes `STATUS.VERDICT` (R14). -/
def setVerdict (v : Verdict) (s : State) : State := { s with verdict := v }

/-- The completion of a command: `LASTOP <- w[31:28]`, `PENDING <- none` (R72). -/
def complete (i : Instr) (s : State) : State := { s with lastop := opcode i, pending := none }

end Sys2Proof.Machine
end

