-- ==== Sys2Proof/Machine/BitField.lean ====
section
/-! DEFINITION. The bit-field extractor: the range check of R123, shared by EXT, CRC and CHK, and the meaning of EXT. -/

namespace Sys2Proof.Machine

/-- The end of a range command (R123, R72): when the command needs frame bits below `needed` and that passes `BUF_BITS`,
it "reads nothing, writes no result, and raises `Fault(BOUNDS, w)`" with `w` its command word (log entry 15); otherwise
its result writes `done` take effect together with its completion. -/
def rangeChecked (i : Instr) (needed : Nat) (s done : State) : Host.Outcome State Fault Refusal :=
  if needed > bufBits s then .next (raiseFault .bounds (encode i) s) else .next (complete i done)

/-- `EXT off, cnt` (R124). -/
def execExt (off : BitVec 8) (cnt : BitVec 7) (s : State) : Host.Outcome State Fault Refusal :=
  rangeChecked (.ext off cnt) (off.toNat + cnt.toNat) s
    (setVerdict .ok (setResult (BitVec.ofNat 64 (frameBits s.frame off.toNat cnt.toNat)) s))

end Sys2Proof.Machine
end

