-- ==== Sys2Proof/Machine/Checksum.lean ====
section
/-! DEFINITION. The CRC-24 checker: the division step of R142, the range CRC of R143, the source's byte-wise procedure of
R144, and the meanings of CRC and CHK. -/

namespace Sys2Proof.Machine

/-- One division step without input: shift left within 25 bits and, when bit 24 comes out set, XOR the generator. -/
def crcShift (poly R : BitVec 25) : BitVec 25 :=
  let T := R <<< 1
  if T.getLsbD 24 then T ^^^ poly else T

/-- `crc_step(R, b)` (R142): the input bit enters at bit 23 before the shift. -/
def crcStep (poly R : BitVec 25) (b : Bool) : BitVec 25 :=
  crcShift poly (R ^^^ ((BitVec.ofBool b).setWidth 25 <<< 23))

/-- The CRC register after the frame bits `start .. start + nbits - 1`, in increasing order, seeded at zero (R141, R143). -/
def crcRegister (poly : BitVec 25) (m : Memory) (start nbits : Nat) : BitVec 25 :=
  (List.range' start nbits).foldl (fun R i => crcStep poly R (frameBit m i)) 0#25

/-- `CrcRange(start, nbits)`: `R[23:0]` (R143). -/
def crcRange (poly : BitVec 25) (m : Memory) (start nbits : Nat) : BitVec 24 :=
  (crcRegister poly m start nbits).setWidth 24

/-- `k` division steps without input (R144 "repeat steps times"). -/
def crcShifts (poly : BitVec 25) : Nat → BitVec 25 → BitVec 25
  | 0, R => R
  | k + 1, R => crcShifts poly k (crcShift poly R)

/-- One byte of the source's procedure (R144): XOR the byte into register bits 23..16, then take the steps. -/
def crcByte (poly R : BitVec 25) (b : Byte) (steps : Nat) : BitVec 25 :=
  crcShifts poly steps (R ^^^ (b.setWidth 25 <<< 16))

/-- `CRC226`, the source's byte-wise procedure over the 226 protected bits (R144): bytes 0 to 27 whole, then byte 28
masked to its top 2 bits, with 2 steps. -/
def crc226 (poly : BitVec 25) (m : Memory) : BitVec 24 :=
  (crcByte poly ((List.range 28).foldl (fun R k => crcByte poly R (m.read k) 8) 0#25) (m.read 28 &&& 0xC0#8) 2).setWidth
    24

/-- The 24 bits that follow a range, `FrameBits(start + nbits, 24)` (R147). -/
def trailerAt (m : Memory) (off : Nat) : BitVec 24 := BitVec.ofNat 24 (frameBits m off Config.trailerW)

/-- `CRC start, nbits` (R146). -/
def execCrc (start : BitVec 8) (nbits : BitVec 9) (s : State) : Host.Outcome State Fault Refusal :=
  rangeChecked (.crc start nbits) (start.toNat + nbits.toNat) s
    (setVerdict .ok (setCrcCalc (crcRange s.params.crcPoly s.frame start.toNat nbits.toNat) s))

/-- The verdict of a comparison of a computed and a received checksum (R147). -/
def checksumVerdict (computed received : BitVec 24) : Verdict := if computed = received then .ok else .checksumError

/-- `CHK start, nbits` (R147). -/
def execChk (start : BitVec 8) (nbits : BitVec 9) (s : State) : Host.Outcome State Fault Refusal :=
  let computed := crcRange s.params.crcPoly s.frame start.toNat nbits.toNat
  let received := trailerAt s.frame (start.toNat + nbits.toNat)
  rangeChecked (.chk start nbits) (start.toNat + nbits.toNat + Config.trailerW) s
    (setVerdict (checksumVerdict computed received) (setCrcRecv received (setCrcCalc computed s)))

end Sys2Proof.Machine
end

