-- ==== Sys2Proof/Machine/Control.lean ====
section
/-! DEFINITION. The control command. -/

namespace Sys2Proof.Machine

/-- `NOP` (R200): nothing but its completion (R72). -/
def execNop (s : State) : Host.Outcome State Fault Refusal := .next (complete .nop s)

end Sys2Proof.Machine
end

