-- ==== Sys2Proof/Machine/Validator.lean ====
section
/-! DEFINITION. The frame header validator: the fixed fields of R170, the matchers of R171 to R175, the header value of
R177, and the meanings of FVAL and PARSE. -/

namespace Sys2Proof.Machine

/-- `PRE = FrameBits(0, 8)` (R170). -/
def preField (m : Memory) : BitVec 8 := BitVec.ofNat 8 (frameBits m 0 8)

/-- `MT = FrameBits(8, 6)` (R170). -/
def mtField (m : Memory) : BitVec 6 := BitVec.ofNat 6 (frameBits m 8 6)

/-- `RC = FrameBits(14, 3)`, read raw (R170). -/
def rcField (m : Memory) : BitVec 3 := BitVec.ofNat 3 (frameBits m 14 3)

/-- `VN = FrameBits(214, 6)` (R170). -/
def vnField (m : Memory) : BitVec 6 := BitVec.ofNat 6 (frameBits m 214 6)

/-- `TRAILER = FrameBits(226, 24)` (R170). -/
def trailerField (m : Memory) : BitVec 24 := trailerAt m Config.trailerOff

/-- The known preamble patterns are exactly `PRE_A` and `PRE_B` (R172). -/
def knownPreamble (P : Params) (pre : BitVec 8) : Bool := pre == Config.preA || pre == P.preB

/-- The defined classification codes (R173). -/
def knownClassification (P : Params) (rc : BitVec 3) : Bool := P.rcCodes.contains rc

/-- `route(PRE, MT)` of a frame that passed the preamble match (R174). -/
def routeOf (pre : BitVec 8) (mt : BitVec 6) : Route :=
  if pre = Config.preA then .base else if mt = Config.jmaMt then .jma else .other

/-- The version gate applies to the JMA route only (R175). -/
def versionOk (P : Params) (route : Route) (vn : BitVec 6) : Bool :=
  match route with
  | .jma => P.supportedVn.contains vn
  | .none => true
  | .base => true
  | .other => true

/-- `hdr_of(frame)` (R177). -/
def hdrOf (m : Memory) : Hdr where
  pre := preField m
  mt := mtField m
  rc := rcField m
  vn := vnField m
  route := routeOf (preField m) (mtField m)
  valid := true

/-- The three checks of the FrameValidator in the order of R176, length, preamble, classification; a frame that passes
them gets the verdict `deeper`. -/
def validatorVerdict (s : State) (deeper : Verdict) : Verdict :=
  if s.flen ≠ 32#16 then .invalidLength
  else if knownPreamble s.params (preField s.frame) = false then .invalidPreamble
  else if knownClassification s.params (rcField s.frame) = false then .invalidClassification
  else deeper

/-- The checks PARSE makes after the validator, checksum then version (R176, R179). -/
def gateVerdict (s : State) : Verdict :=
  if crcRange s.params.crcPoly s.frame 0 Config.protBits ≠ trailerField s.frame then .checksumError
  else if versionOk s.params (routeOf (preField s.frame) (mtField s.frame)) (vnField s.frame) = false then
    .unsupportedVersion
  else .ok

/-- `HDR <- hdr_of(FRAME) if v = OK else 0; verdict(v)` (R177, R178, R179). -/
def reportVerdict (v : Verdict) (s : State) : State :=
  setVerdict v (setHdr (if v = .ok then hdrOf s.frame else Hdr.zero) s)

/-- `FVAL` (R178). -/
def execFval (s : State) : Host.Outcome State Fault Refusal :=
  .next (complete .fval (reportVerdict (validatorVerdict s .ok) s))

/-- `PARSE` (R179). -/
def execParse (s : State) : Host.Outcome State Fault Refusal :=
  .next (complete .parse (reportVerdict (validatorVerdict s (gateVerdict s)) s))

end Sys2Proof.Machine
end

