-- ==== Sys2Proof/Machine/Dispatch.lean ====
section
/-! DEFINITION. The meaning of a command, one arm per constructor (R72). -/

namespace Sys2Proof.Machine

/-- The rule of a command's opcode, run by the engine step (R72). -/
def exec (i : Instr) (s : State) : Host.Outcome State Fault Refusal :=
  match i with
  | .nop => Sys2Proof.Machine.execNop s
  | .ext off cnt => Sys2Proof.Machine.execExt off cnt s
  | .crc start nbits => Sys2Proof.Machine.execCrc start nbits s
  | .chk start nbits => Sys2Proof.Machine.execChk start nbits s
  | .fval => Sys2Proof.Machine.execFval s
  | .parse => Sys2Proof.Machine.execParse s

end Sys2Proof.Machine
end

