-- ==== Sys2Proof/Machine/HostPort.lean ====
section
/-! DEFINITION. The host port: reads (R63, R67), writes (R68) and the acceptance of a command (R71). -/

namespace Sys2Proof.Machine

/-- `MemRead` of the register at a word index (R63): the word its map row gives; `CMD` and unmapped words read 0. -/
def hostRead (k : WordIndex) (s : State) : Word :=
  match regAt k with
  | .cmd => 0#32
  | .status => statusWord s
  | .fault => faultWord s
  | .faultInfo => s.faultInfo
  | .flen => s.flen.setWidth 32
  | .resultHi => s.result.extractLsb' 32 32
  | .resultLo => s.result.extractLsb' 0 32
  | .crcCalc => s.crcCalc.setWidth 32
  | .crcRecv => s.crcRecv.setWidth 32
  | .hdr => hdrWord s.hdr
  | .frame j => s.frame.readWord j.val
  | .unmapped => 0#32

/-- `accept(w)` (R71): an illegal word raises `Fault(ILLEGAL, w)`, a legal one becomes pending. -/
def accept (w : Word) (s : State) : State :=
  match decode w with
  | .legal _ => setPending w s
  | .illegal _ => raiseFault .illegal w s

/-- A write to a register that is neither dropped (R70) nor an overrun (R69): the last cases of R68. -/
def writeReg (k : WordIndex) (v : Word) (s : State) : State :=
  match regAt k with
  | .cmd => accept v s
  | .flen => setFlen (v.setWidth 16) s
  | .frame j => setFrameWord j v s
  | .status => s
  | .fault => s
  | .faultInfo => s
  | .resultHi => s
  | .resultLo => s
  | .crcCalc => s
  | .crcRecv => s
  | .hdr => s
  | .unmapped => s

/-- `MemWrite`, "the first matching case deciding" (R68). -/
def hostWrite (k : WordIndex) (v : Word) (s : State) : State :=
  if s.faulted then s
  else if frozenWhilePending (regAt k) && busy s then raiseFault .overrun (byteAddr k) s
  else writeReg k v s

end Sys2Proof.Machine
end

