-- ==== Sys2Proof/Machine/Engine.lean ====
section
/-! DEFINITION. The turns of the agents: the engine step (R72), the host's accesses, its `WAIT` (R102), the reset input
(R240), and what a step does when no turn is left. -/

namespace Sys2Proof.Machine

/-- The engine's turn (R72): enabled exactly when a command is pending and no fault is recorded; it runs the rule of the
pending word's command. A turn that is not enabled changes nothing (log entry 1). -/
def engineStep (s : State) : Host.Outcome State Fault Refusal :=
  if s.faulted then .next s
  else
    match s.pending with
    | none => .next s
    | some w =>
      match decode w with
      | .legal i => exec i s
      | .illegal _ => .refused (.pendingIllegal w)

/-- A host read: the value is noted and the block is not changed (R67, R102). -/
def readTurn (k : WordIndex) (s : State) : State := noteRead k (hostRead k s) s

/-- One poll of `WAIT` (R102): a read of `STATUS`; while `BUSY` reads 1 the engine gets a turn and the host polls again
(weak fairness, R72; log entry 7). -/
def waitTurn (s : State) : State :=
  if (hostRead statusIndex s).getLsbD 8 then setScript (.engine :: .wait :: s.script) (readTurn statusIndex s)
  else readTurn statusIndex s

/-- One turn, already taken off the script. The reset input is one instantaneous turn, asserted and released in it, so the
next access takes effect: the model's choice, since no rule says what an access does while reset is held (R240, R242; log
entry 12). -/
def takeTurn (e : Event) (s : State) : Host.Outcome State Fault Refusal :=
  match e with
  | .read k => .next (readTurn k s)
  | .write k v => .next (hostWrite k v s)
  | .wait => .next (waitTurn s)
  | .engine => engineStep s
  | .reset => .next (resetBlock s)

/-- A step with no turn left: an enabled engine still gets one (weak fairness, R72, R246), an idle block holds its state
(R222), and a faulted block is "a fault outcome that is never final" (R215; log entry 4). -/
def quietStep (s : State) : Host.Outcome State Fault Refusal :=
  if s.faulted then .fault .blockFaulted else engineStep s

/-- The accepted command a host's write to `CMD` leaves, at the engine's turn: `PENDING` holds the word, no fault is
recorded, and the next turn is the engine's (log entry 11). -/
def presentCommand (w : Word) (s : State) : State :=
  { s with
    pending := some w, faulted := false, faultCause := .none, faultInfo := 0#32, script := .engine :: s.script }

end Sys2Proof.Machine
end

