-- ==== Sys2Proof/Machine/Step.lean ====
section
/-! DEFINITION. One step: the next turn of the script, or the quiet step when there is none. -/

namespace Sys2Proof.Machine

/-- One step of the machine: host accesses and engine steps are atomic and totally ordered (R74, R214). -/
def step (s : State) : Host.Outcome State Fault Refusal :=
  match s.script with
  | [] => quietStep s
  | e :: rest => takeTurn e (setScript rest s)

/-- The state in which the very next step runs the command in the low `nbits` bits of `w` (log entry 11). -/
def State.withFetchWord (s : State) (nbits w : Nat) : State :=
  presentCommand (BitVec.ofNat 32 (w % 2 ^ nbits)) s

end Sys2Proof.Machine
end

