-- ==== Sys2Proof/Machine/Instances.lean ====
section
/-! DEFINITION. Independent instances (R82): each has all the state of R35 and its own host port. -/

namespace Sys2Proof.Machine

/-- One step of instance `n` of a bank of instances; a turn for an instance that is not there changes nothing.
R82 gives a bank no outcome of its own. The model's choice (log entry 18): where the chosen instance's own step stops (a
faulted one with no turn left, log entry 4), the bank's step is that stop and names no next bank; the other instances are
as they were in `bank`, and a step of any of them from it goes on. -/
def stepInstance (n : Nat) (bank : List State) : Host.Outcome (List State) Fault Refusal :=
  match bank[n]? with
  | none => .next bank
  | some s =>
    match step s with
    | .next t => .next (bank.set n t)
    | .fault r => .fault r
    | .refused r => .refused r

end Sys2Proof.Machine
end

