-- ==== Sys2Proof/Machine/HostProgram.lean ====
section
/-! DEFINITION. The host side of the manual: the assembler of R101 and the host programs and pseudo-instructions of R102,
expanded into turns. -/

namespace Sys2Proof.Machine

/-- The value of a decimal digit. -/
def decDigit (c : Char) : Option Nat :=
  if '0' ≤ c ∧ c ≤ '9' then some (c.toNat - '0'.toNat) else none

/-- The value of a hexadecimal digit, of either case. -/
def hexDigit (c : Char) : Option Nat :=
  if 'a' ≤ c ∧ c ≤ 'f' then some (c.toNat - 'a'.toNat + 10)
  else if 'A' ≤ c ∧ c ≤ 'F' then some (c.toNat - 'A'.toNat + 10)
  else decDigit c

/-- The digits of a number, continuing from `acc`. -/
def digitsFrom (base : Nat) (digit : Char → Option Nat) (acc : Nat) : List Char → Option Nat
  | [] => some acc
  | c :: cs =>
    match digit c with
    | none => none
    | some d => digitsFrom base digit (acc * base + d) cs

/-- "Numbers are decimal or `0x`-prefixed hexadecimal" (R101). -/
def parseNumber : List Char → Option Nat
  | [] => none
  | '0' :: 'x' :: [] => none
  | '0' :: 'x' :: c :: cs => digitsFrom 16 hexDigit 0 (c :: cs)
  | c :: cs => digitsFrom 10 decDigit 0 (c :: cs)

/-- Text without the blanks at its ends. -/
def trimBlanks (cs : List Char) : List Char :=
  ((cs.dropWhile (· = ' ')).reverse.dropWhile (· = ' ')).reverse

/-- The parts between commas, with the current part kept in reverse. -/
def splitCommas (part : List Char) : List Char → List (List Char)
  | [] => [part.reverse]
  | c :: cs => if c = ',' then part.reverse :: splitCommas [] cs else splitCommas (c :: part) cs

/-- The numbers of a list of operand texts; none when one is no number. -/
def parseOperands : List (List Char) → Option (List Nat)
  | [] => some []
  | t :: ts =>
    match parseNumber (trimBlanks t), parseOperands ts with
    | some n, some ns => some (n :: ns)
    | _, _ => none

/-- A command of R101 with its operands as numbers; `.word` is "the only way to write an illegal word". -/
inductive AsmCommand where
  | nop
  | ext (off cnt : Nat)
  | crc (start nbits : Nat)
  | chk (start nbits : Nat)
  | fval
  | parse
  | word (v : Nat)
  deriving DecidableEq, Repr

/-- "The assembler refuses an operand outside its legal range" (R101); a legal command is encoded as R96 says. -/
def assembleCommand : AsmCommand → Option Word
  | .nop => some (encode .nop)
  | .ext off cnt =>
    if off < 256 ∧ cnt ≤ 64 then some (encode (.ext (BitVec.ofNat 8 off) (BitVec.ofNat 7 cnt))) else none
  | .crc start nbits =>
    if start < 256 ∧ nbits < 512 then some (encode (.crc (BitVec.ofNat 8 start) (BitVec.ofNat 9 nbits))) else none
  | .chk start nbits =>
    if start < 256 ∧ nbits < 512 then some (encode (.chk (BitVec.ofNat 8 start) (BitVec.ofNat 9 nbits))) else none
  | .fval => some (encode .fval)
  | .parse => some (encode .parse)
  | .word v => if v < 2 ^ 32 then some (BitVec.ofNat 32 v) else none

/-- A mnemonic and its operands as a command; none when the mnemonic is unknown or the operands are too few or many. -/
def asmCommand (mnemonic : List Char) (operands : List Nat) : Option AsmCommand :=
  match operands with
  | [] =>
    if mnemonic = "NOP".toList then some .nop
    else if mnemonic = "FVAL".toList then some .fval
    else if mnemonic = "PARSE".toList then some .parse
    else none
  | [a] => if mnemonic = ".word".toList then some (.word a) else none
  | [a, b] =>
    if mnemonic = "EXT".toList then some (.ext a b)
    else if mnemonic = "CRC".toList then some (.crc a b)
    else if mnemonic = "CHK".toList then some (.chk a b)
    else none
  | _ :: _ :: _ :: _ => none

/-- One line of assembler text (R101): a mnemonic, then its operands parted by commas (log entry 17). -/
def parseLine (line : List Char) : Option AsmCommand :=
  let text := trimBlanks line
  let mnemonic := text.takeWhile (· ≠ ' ')
  let rest := trimBlanks (text.dropWhile (· ≠ ' '))
  match if rest = [] then some [] else parseOperands (splitCommas [] rest) with
  | none => none
  | some operands => asmCommand mnemonic operands

/-- The assembler of R101 on one line of text. -/
def assemble (line : String) : Option Word :=
  match parseLine line.toList with
  | none => none
  | some c => assembleCommand c

/-- The forms of a host program (R102). An access names its word index; `issueWord` is the `.word` of R101. -/
inductive HostOp where
  | wr (k : WordIndex) (v : Word)
  | rd (k : WordIndex)
  | issue (i : Instr)
  | issueWord (w : Word)
  | wait
  | setlen (n : Word)
  | loadframe (x : Vector Byte 32)
  | verify
  | readbits (off : BitVec 8) (cnt : BitVec 7)
  deriving DecidableEq, Repr

/-- `{x4j, x4j+1, x4j+2, x4j+3}`, the word `LOADFRAME` writes to `FRAMEj` (R102). -/
def loadWord (x : Vector Byte 32) (j : Fin 8) : Word :=
  x[4 * j.val] ++ x[4 * j.val + 1] ++ x[4 * j.val + 2] ++ x[4 * j.val + 3]

/-- The expansions of R102. -/
def expand : HostOp → List Event
  | .wr k v => [.write k v]
  | .rd k => [.read k]
  | .issue i => [.write cmdIndex (encode i)]
  | .issueWord w => [.write cmdIndex w]
  | .wait => [.wait]
  | .setlen n => [.write flenIndex n]
  | .loadframe x => (List.finRange 8).map fun j => .write (frameIndex j) (loadWord x j)
  | .verify => [.write cmdIndex (encode (.chk 0#8 226#9))]
  | .readbits off cnt =>
    [.write cmdIndex (encode (.ext off cnt)), .wait, .read resultHiIndex, .read resultLoIndex]

/-- A host program as turns. -/
def expandProgram (prog : List HostOp) : List Event := prog.flatMap expand

/-- The eager schedule of a program's turns: the engine gets a turn right after every write to `CMD`
(95_test_vectors.md section 4). -/
def eager : List Event → List Event
  | [] => []
  | .write k v :: rest => if k = cmdIndex then .write k v :: .engine :: eager rest else .write k v :: eager rest
  | .read k :: rest => .read k :: eager rest
  | .wait :: rest => .wait :: eager rest
  | .engine :: rest => .engine :: eager rest
  | .reset :: rest => .reset :: eager rest

end Sys2Proof.Machine
end

