-- ==== Sys2Proof/Safety.lean ====
section
/-! DEFINITION. What counts as a safe run: the invariant of every reachable state, a final state, and the busy-hazard
discipline of R243. -/

namespace Sys2Proof.Machine

/-- What `PENDING` may hold: "an accepted, legal command the engine has not yet completed" (R25), and nothing once a
fault is recorded (R212). -/
def pendingLegal (s : State) : Bool :=
  match s.pending with
  | none => true
  | some w =>
    !s.faulted &&
      match decode w with
      | .legal _ => true
      | .illegal _ => false

/-- The byte addresses an OVERRUN can record: those of `CMD`, `FLEN` and `FRAMEj` (R69, R211). -/
def overrunAddr (a : Word) : Bool :=
  (List.range 64).any fun k => frozenWhilePending (regAt (BitVec.ofNat 6 k)) && byteAddr (BitVec.ofNat 6 k) == a

/-- The information that goes with a cause (R211). -/
def faultInfoFits (cause : FaultCause) (info : Word) : Bool :=
  match cause with
  | .none => info == 0#32
  | .bounds =>
    match decode info with
    | .legal (.ext _ _) => true
    | .legal (.crc _ _) => true
    | .legal (.chk _ _) => true
    | .legal .nop => false
    | .legal .fval => false
    | .legal .parse => false
    | .illegal _ => false
  | .illegal =>
    match decode info with
    | .legal _ => false
    | .illegal _ => true
  | .overrun => overrunAddr info

/-- The fault record (R26, R27, R28): `FAULTED` exactly when there is a cause, and the information that goes with it. -/
abbrev FaultRecordOk (s : State) : Prop :=
  (s.faulted = true ↔ s.faultCause ≠ .none) ∧ faultInfoFits s.faultCause s.faultInfo = true

/-- What `HDR` may hold (R32, R177): all fields 0, or the header of a frame that passed the preamble and classification
checks, with its route. -/
abbrev HdrOk (s : State) : Prop :=
  s.hdr = Hdr.zero ∨
    s.hdr.valid = true ∧ knownPreamble s.params s.hdr.pre = true ∧ knownClassification s.params s.hdr.rc = true ∧
      s.hdr.route = routeOf s.hdr.pre s.hdr.mt

/-- The invariant of every reachable state: the parameters meet R10's constraints, the frame buffer is in canonical form,
only a legal command is pending, the fault record and the header are consistent, and `LASTOP` is an opcode of R96. -/
abbrev Inv (s : State) : Prop :=
  s.params.WF ∧ s.frame.wf ∧ pendingLegal s = true ∧ FaultRecordOk s ∧ HdrOk s ∧ s.lastop.toNat ≤ 5

/-- A run that is over and may be read as a result: no turn left, nothing pending, and no fault, since a faulted state is
"never final" (R215, D21). -/
abbrev Final (s : State) : Prop := s.script = [] ∧ s.pending = none ∧ s.faulted = false

/-- The discipline of R243: once `CMD` has been written (`mayBeBusy`), the host writes no frozen register until a `WAIT`
has seen `BUSY = 0` or the block has been reset. -/
def keepsBusyRule (mayBeBusy : Bool) : List Event → Bool
  | [] => true
  | .read _ :: rest => keepsBusyRule mayBeBusy rest
  | .write k _ :: rest =>
    !(mayBeBusy && frozenWhilePending (regAt k)) && keepsBusyRule (mayBeBusy || regAt k == .cmd) rest
  | .wait :: rest => keepsBusyRule false rest
  | .engine :: rest => keepsBusyRule mayBeBusy rest
  | .reset :: rest => keepsBusyRule false rest

end Sys2Proof.Machine
end

