-- ==== Sys2Proof/Certificates/Slice0/Obligations.lean ====
section
/-! DEFINITION. The statements for the provers, with the manual's own number-level readings of a frame bit, a CRC and a
verdict that they compare the model with. -/

namespace Sys2Proof.Spec

open Sys2Proof.Machine

/-- `FB(i)`, as the number `(FRAME[i div 8] >> (7 - (i mod 8))) & 1` (R12). -/
def frameBit (m : Memory) (i : Nat) : Bool := (m.read (i / 8)).toNat >>> (7 - i % 8) % 2 == 1

/-- `BUF_BITS` (R123). -/
def bufBits (s : State) : Nat := 8 * min s.flen.toNat 32

/-- Nothing pending and no fault recorded. -/
def Idle (s : State) : Prop := s.faulted = false ∧ s.pending = none

/-- The four writes of fault entry and nothing else (R212). -/
def afterFault (cause : FaultCause) (info : Word) (s : State) : State :=
  { s with faultCause := cause, faultInfo := info, faulted := true, pending := none }

/-- `crc_step(R, b)` on naturals (R142, R14). -/
def crcStep (poly R b : Nat) : Nat :=
  let T := ((R ^^^ (b <<< 23)) <<< 1) % 2 ^ 25
  if T.testBit 24 then T ^^^ poly else T

/-- `CrcRange(start, nbits)` on naturals (R143). -/
def crcRange (poly : Nat) (m : Memory) (start nbits : Nat) : Nat :=
  ((List.range nbits).foldl (fun R i => crcStep poly R (frameBit m (start + i)).toNat) 0) % 2 ^ 24

/-- The byte-wise procedure of R144 run over bytes `k` onwards for `nbits` bits, "with the last byte masked to its top
`nbits mod 8` bits and that many steps" (R145). -/
def byteWise (poly : BitVec 25) (m : Memory) (k nbits : Nat) : BitVec 24 :=
  let whole := (List.range (nbits / 8)).foldl (fun R i => crcByte poly R (m.read (k + i)) 8) 0#25
  (crcByte poly whole (m.read (k + nbits / 8) &&& BitVec.ofNat 8 (0xFF <<< (8 - nbits % 8))) (nbits % 8)).setWidth 24

/-- The frame bits a command needs to lie below `BUF_BITS` (R123, R211). -/
def needed : Instr → Nat
  | .nop => 0
  | .ext off cnt => off.toNat + cnt.toNat
  | .crc start nbits => start.toNat + nbits.toNat
  | .chk start nbits => start.toNat + nbits.toNat + 24
  | .fval => 0
  | .parse => 0

/-- The verdict codes of R210. -/
def verdictNumber : Verdict → Nat
  | .ok => 0
  | .invalidLength => 1
  | .invalidPreamble => 2
  | .invalidClassification => 3
  | .checksumError => 4
  | .unsupportedVersion => 5

/-- The fault codes of R211. -/
def causeNumber : FaultCause → Nat
  | .none => 0
  | .bounds => 1
  | .illegal => 2
  | .overrun => 3

/-- The route codes of R174. -/
def routeNumber : Route → Nat
  | .none => 0
  | .base => 1
  | .jma => 2
  | .other => 3

/-- The first three checks of R178 and R179, on numbers. -/
def validator (s : State) (deeper : Verdict) : Verdict :=
  if s.flen.toNat ≠ 32 then .invalidLength
  else if frameBits s.frame 0 8 ∉ [0x53, s.params.preB.toNat] then .invalidPreamble
  else if frameBits s.frame 14 3 ∉
      [s.params.rcMax.toNat, s.params.rcPri.toNat, s.params.rcReg.toNat, s.params.rcTrn.toNat] then
    .invalidClassification
  else deeper

/-- `route(FrameBits(0, 8), FrameBits(8, 6))` as a code (R174). -/
def route (s : State) : Nat :=
  if frameBits s.frame 0 8 = 0x53 then 1 else if frameBits s.frame 8 6 = 43 then 2 else 3

/-- The verdict of R179. -/
def parseVerdict (s : State) : Verdict :=
  validator s
    (if crcRange s.params.crcPoly.toNat s.frame 0 226 ≠ frameBits s.frame 226 24 then .checksumError
    else if route s = 2 ∧ frameBits s.frame 214 6 ∉ s.params.supportedVn.map BitVec.toNat then .unsupportedVersion
    else .ok)

/-- `hdr_of(frame)` as the number its layout gives (R177). -/
def hdrNumber (s : State) : Nat :=
  frameBits s.frame 0 8 * 2 ^ 24 + frameBits s.frame 8 6 * 2 ^ 18 + frameBits s.frame 14 3 * 2 ^ 15 +
    frameBits s.frame 214 6 * 2 ^ 9 + route s * 2 ^ 7 + 1

/-- The step runs the engine on a legal pending command for which `p` holds. -/
def Runs (s : State) (p : Instr → Bool) : Prop :=
  (s.script = [] ∨ ∃ rest, s.script = .engine :: rest) ∧ s.faulted = false ∧
    ∃ w i, s.pending = some w ∧ decode w = .legal i ∧ p i = true

/-- The word indices whose registers a pending command freezes, by their byte addresses (R68). -/
def Frozen (k : WordIndex) : Prop :=
  4 * k.toNat = 0x00 ∨ 4 * k.toNat = 0x10 ∨ 0x40 ≤ 4 * k.toNat ∧ 4 * k.toNat ≤ 0x5C

/-- The assembler command that names a command (R101). -/
def asmOf : Instr → AsmCommand
  | .nop => .nop
  | .ext off cnt => .ext off.toNat cnt.toNat
  | .crc start nbits => .crc start.toNat nbits.toNat
  | .chk start nbits => .chk start.toNat nbits.toNat
  | .fval => .fval
  | .parse => .parse

/-- `n` steps of the machine, stopping at the first fault or refusal. -/
def run : Nat → State → Host.Outcome State Fault Refusal
  | 0, s => .next s
  | n + 1, s =>
    match step s with
    | .next t => run n t
    | .fault r => .fault r
    | .refused r => .refused r

end Sys2Proof.Spec

open Sys2Proof Sys2Proof.Machine

/-! ## Encoding -/

/-- Every well-formed command decodes back from its word (R90 to R99). -/
def Obligations.DecodeEncodeRoundTrip : Prop := ∀ i : Instr, i.wf = true → decode (encode i) = .legal i

/-- A legal word is the word of the one command it decodes to. -/
def Obligations.EncodeDecodeRoundTrip : Prop :=
  ∀ (w : Word) (i : Instr), decode w = .legal i → i.wf = true ∧ encode i = w

/-- R99: which words are illegal, that a legal word falls under exactly one row of R96, the row of its command, and that
an illegal word raises ILLEGAL and is never pending. -/
def Obligations.IllegalWordsAreThoseOfTheDecodeRule : Prop :=
  (∀ w : Word, (∃ why, decode w = .illegal why) ↔
    (6 ≤ w.toNat / 2 ^ 28 ∨
      (w.toNat / 2 ^ 28 = 0 ∨ w.toNat / 2 ^ 28 = 4 ∨ w.toNat / 2 ^ 28 = 5) ∧ w.toNat % 2 ^ 28 ≠ 0 ∨
      w.toNat / 2 ^ 28 = 1 ∧ (w.toNat % 2 ^ 13 ≠ 0 ∨ 64 < w.toNat / 2 ^ 13 % 2 ^ 7) ∨
      (w.toNat / 2 ^ 28 = 2 ∨ w.toNat / 2 ^ 28 = 3) ∧ w.toNat % 2 ^ 11 ≠ 0)) ∧
  (∀ (w : Word) (i : Instr), decode w = .legal i →
    (opcodeRows.filter fun r => r.covers w).map (fun r => r.mnemonic) = [rowName i]) ∧
  ∀ (w : Word) (why : IllegalWord) (s : State), decode w = .illegal why → Spec.Idle s →
    hostWrite cmdIndex w s = Spec.afterFault .illegal w s

/-- R95: every operand is its field, unsigned and unscaled. -/
def Obligations.OperandsAreUnsignedFields : Prop :=
  (∀ (w : Word) (off : BitVec 8) (cnt : BitVec 7), decode w = .legal (.ext off cnt) →
    off.toNat = w.toNat / 2 ^ 20 % 2 ^ 8 ∧ cnt.toNat = w.toNat / 2 ^ 13 % 2 ^ 7) ∧
  (∀ (w : Word) (start : BitVec 8) (nbits : BitVec 9),
    decode w = .legal (.crc start nbits) ∨ decode w = .legal (.chk start nbits) →
      start.toNat = w.toNat / 2 ^ 20 % 2 ^ 8 ∧ nbits.toNat = w.toNat / 2 ^ 11 % 2 ^ 9)

/-- The encoding functions under the opcode map of R96, and the opcode that a completed command leaves in LASTOP. -/
def Obligations.EncodingFunctionsOfTheOpcodeMap : Prop :=
  encode .nop = 0x00000000#32 ∧ encode .fval = 0x40000000#32 ∧ encode .parse = 0x50000000#32 ∧
  (∀ (off : BitVec 8) (cnt : BitVec 7),
    (encode (.ext off cnt)).toNat = 0x10000000 ||| (off.toNat <<< 20) ||| (cnt.toNat <<< 13)) ∧
  (∀ (start : BitVec 8) (n : BitVec 9),
    (encode (.crc start n)).toNat = 0x20000000 ||| (start.toNat <<< 20) ||| (n.toNat <<< 11) ∧
    (encode (.chk start n)).toNat = 0x30000000 ||| (start.toNat <<< 20) ||| (n.toNat <<< 11)) ∧
  ∀ i : Instr, (opcode i).toNat = (encode i).toNat / 2 ^ 28

/-- Words written out from the formats of R92 to R94, one of each family. -/
def Obligations.SampleWordsDecode : Prop :=
  decode 0b00000000000000000000000000000000#32 = .legal .nop ∧
  decode 0b00010000111000000110000000000000#32 = .legal (.ext 14#8 3#7) ∧
  decode 0b00100000100000100100000000000000#32 = .legal (.crc 8#8 72#9) ∧
  decode 0b00110000000001110001000000000000#32 = .legal (.chk 0#8 226#9) ∧
  decode 0b01000000000000000000000000000000#32 = .legal .fval ∧
  decode 0b01010000000000000000000000000000#32 = .legal .parse ∧
  decode 0b00010000000010000010000000000000#32 = .illegal .widthOver64

/-! ## Reset -/

/-- R241: the reset values, and that "after reset every mapped register reads 0". -/
def Obligations.ResetValues : Prop :=
  (∀ i, i < 256 → Spec.frameBit State.reset.frame i = false) ∧ State.reset.flen = 0#16 ∧ State.reset.pending = none ∧
  Spec.verdictNumber State.reset.verdict = 0 ∧ State.reset.lastop = 0#4 ∧ busy State.reset = false ∧
  State.reset.faulted = false ∧ Spec.causeNumber State.reset.faultCause = 0 ∧ State.reset.faultInfo = 0#32 ∧
  State.reset.result = 0#64 ∧ State.reset.crcCalc = 0#24 ∧ State.reset.crcRecv = 0#24 ∧
  hdrWord State.reset.hdr = 0#32 ∧ ∀ k : WordIndex, hostRead k State.reset = 0#32

/-- The reset input (R240) puts every piece of state at its reset value from any state, a faulted or busy one too; the
parameters stay (R34), and so do the model's own turns and notes (log entry 12). -/
def Obligations.ResetInputRestoresEveryRegister : Prop :=
  ∀ (s : State) (rest : List Event), s.script = .reset :: rest →
    ∃ t, step s = .next t ∧ t = { State.reset with params := s.params, script := rest, reads := s.reads } ∧
      ∀ k : WordIndex, hostRead k t = 0#32

/-- The last sentences of R242: a host that presents no frame is told so. -/
def Obligations.CommandsWithoutAFrame : Prop :=
  ∀ s : State, s.flen = 0#16 →
    (∃ t, exec .fval s = .next t ∧ t.verdict = .invalidLength) ∧
    (∃ t, exec .parse s = .next t ∧ t.verdict = .invalidLength) ∧
    (∀ (off : BitVec 8) (cnt : BitVec 7), 1 ≤ cnt.toNat →
      exec (.ext off cnt) s = .next (Spec.afterFault .bounds (encode (.ext off cnt)) s)) ∧
    (∀ (start : BitVec 8) (n : BitVec 9), 1 ≤ n.toNat →
      exec (.crc start n) s = .next (Spec.afterFault .bounds (encode (.crc start n)) s)) ∧
    ∀ (start : BitVec 8) (n : BitVec 9),
      exec (.chk start n) s = .next (Spec.afterFault .bounds (encode (.chk start n)) s)

/-! ## The host port -/

/-- The contents of the register map (R63), every word as the number its bits give. -/
def Obligations.ReadsReturnTheRegisterMap : Prop :=
  ∀ s : State,
    hostRead 0#6 s = 0#32 ∧
    (hostRead 1#6 s).toNat =
      Spec.verdictNumber s.verdict + s.lastop.toNat * 2 ^ 4 + s.pending.isSome.toNat * 2 ^ 8 + s.faulted.toNat * 2 ^ 9 ∧
    (hostRead 2#6 s).toNat = Spec.causeNumber s.faultCause ∧
    hostRead 3#6 s = s.faultInfo ∧
    (hostRead 4#6 s).toNat = s.flen.toNat ∧
    (hostRead 5#6 s).toNat = s.result.toNat / 2 ^ 32 ∧
    (hostRead 6#6 s).toNat = s.result.toNat % 2 ^ 32 ∧
    (hostRead 7#6 s).toNat = s.crcCalc.toNat ∧
    (hostRead 8#6 s).toNat = s.crcRecv.toNat ∧
    (hostRead 9#6 s).toNat =
      s.hdr.pre.toNat * 2 ^ 24 + s.hdr.mt.toNat * 2 ^ 18 + s.hdr.rc.toNat * 2 ^ 15 + s.hdr.vn.toNat * 2 ^ 9 +
        Spec.routeNumber s.hdr.route * 2 ^ 7 + s.hdr.valid.toNat ∧
    (∀ k : WordIndex, 10 ≤ k.toNat ∧ k.toNat ≤ 15 ∨ 24 ≤ k.toNat → hostRead k s = 0#32) ∧
    ∀ k : WordIndex, 16 ≤ k.toNat → k.toNat ≤ 23 →
      (hostRead k s).toNat =
        (s.frame.read (4 * (k.toNat - 16))).toNat * 2 ^ 24 + (s.frame.read (4 * (k.toNat - 16) + 1)).toNat * 2 ^ 16 +
          (s.frame.read (4 * (k.toNat - 16) + 2)).toNat * 2 ^ 8 + (s.frame.read (4 * (k.toNat - 16) + 3)).toNat

/-- R65: an unmapped word reads 0, and a write to it has no effect and raises nothing. -/
def Obligations.UnmappedWordsReadZeroAndIgnoreWrites : Prop :=
  ∀ (k : WordIndex) (v : Word) (s : State), 10 ≤ k.toNat ∧ k.toNat ≤ 15 ∨ 24 ≤ k.toNat →
    hostRead k s = 0#32 ∧ hostWrite k v s = s

/-- R66: a write to a read-only register has no effect and raises nothing, pending or not. -/
def Obligations.ReadOnlyRegistersIgnoreWrites : Prop :=
  ∀ (k : WordIndex) (v : Word) (s : State), k.toNat ∈ [1, 2, 3, 5, 6, 7, 8, 9] → hostWrite k v s = s

/-- R67: a read changes nothing but the host's own turns and notes (log entries 1 and 6), two reads in a row return the same word, and while a command is
pending the registers read as before it, but for BUSY. -/
def Obligations.ReadsHaveNoSideEffect : Prop :=
  (∀ (k : WordIndex) (s : State) (rest : List Event), s.script = .read k :: rest →
    step s = .next { s with script := rest, reads := ⟨k, hostRead k s⟩ :: s.reads }) ∧
  (∀ (k : WordIndex) (s : State) (rest : List Event), s.script = .read k :: .read k :: rest →
    ∃ v, Spec.run 2 s = .next { s with script := rest, reads := ⟨k, v⟩ :: ⟨k, v⟩ :: s.reads }) ∧
  ∀ (k : WordIndex) (w : Word) (s : State), s.pending = none →
    hostRead k { s with pending := some w } = hostRead k s ||| (if k = statusIndex then 0x100#32 else 0#32)

/-- R68: a host write, the first matching case deciding, by byte addresses. -/
def Obligations.WritesByTheFirstMatchingCase : Prop :=
  ∀ (k : WordIndex) (v : Word) (s : State),
    (s.faulted = true → hostWrite k v s = s) ∧
    (s.faulted = false → s.pending ≠ none → Spec.Frozen k →
      hostWrite k v s = Spec.afterFault .overrun (BitVec.ofNat 32 (4 * k.toNat)) s) ∧
    (Spec.Idle s → 4 * k.toNat = 0x00 → hostWrite k v s = accept v s) ∧
    (Spec.Idle s → 4 * k.toNat = 0x10 → hostWrite k v s = { s with flen := BitVec.ofNat 16 v.toNat }) ∧
    (∀ j, j < 8 → Spec.Idle s → 4 * k.toNat = 0x40 + 4 * j →
      hostWrite k v s = { s with frame := s.frame.writeWord j v }) ∧
    (s.faulted = false → ¬ Spec.Frozen k → hostWrite k v s = s)

/-- R64: the packing of the frame on the host port, for every word, byte and bit of it. -/
def Obligations.FrameWordsAreBigEndian : Prop :=
  (∀ (m : Memory) (j : Nat) (v : Word), m.wf → j < 8 →
    ((m.writeWord j v).read (4 * j)).toNat = v.toNat / 2 ^ 24 ∧
    ((m.writeWord j v).read (4 * j + 1)).toNat = v.toNat / 2 ^ 16 % 2 ^ 8 ∧
    ((m.writeWord j v).read (4 * j + 2)).toNat = v.toNat / 2 ^ 8 % 2 ^ 8 ∧
    ((m.writeWord j v).read (4 * j + 3)).toNat = v.toNat % 2 ^ 8 ∧
    (∀ a, a < 4 * j ∨ 4 * j + 4 ≤ a → (m.writeWord j v).read a = m.read a) ∧
    (m.writeWord j v).readWord j = v ∧
    (∀ b, b < 32 → Spec.frameBit (m.writeWord j v) (32 * j + b) = v.getLsbD (31 - b)) ∧
    (m.writeWord j v).wf) ∧
  (∀ (m : Memory) (j : Nat),
    m.readWord j = m.read (4 * j) ++ m.read (4 * j + 1) ++ m.read (4 * j + 2) ++ m.read (4 * j + 3)) ∧
  ∀ (m : Memory) (i : Nat), i < 256 → (frameNumber m).testBit (255 - i) = Spec.frameBit m i

/-- R69: a write to CMD, FLEN or a FRAME word while a command is pending is not performed and raises OVERRUN with the
byte address written. -/
def Obligations.WritesWhilePendingOverrun : Prop :=
  ∀ (k : WordIndex) (v w : Word) (s : State) (rest : List Event),
    s.script = .write k v :: rest → s.faulted = false → s.pending = some w → Spec.Frozen k →
      step s = .next (Spec.afterFault .overrun (BitVec.ofNat 32 (4 * k.toNat)) { s with script := rest })

/-- R70: in a faulted block every turn but the reset input leaves all of the block (the host's own turns and notes move on,
log entries 1 and 6), a read still returns the state, and the reset input leaves the condition. -/
def Obligations.FaultedBlockIgnoresWrites : Prop :=
  ∀ s : State, s.faulted = true →
    (∀ t, step s = .next t → (∀ rest, s.script ≠ .reset :: rest) → t = { s with script := t.script, reads := t.reads }) ∧
    (∀ k v rest, s.script = .write k v :: rest → step s = .next { s with script := rest }) ∧
    (∀ k rest, s.script = .read k :: rest →
      step s = .next { s with script := rest, reads := ⟨k, hostRead k s⟩ :: s.reads }) ∧
    (∀ rest, s.script = .reset :: rest → ∃ t, step s = .next t ∧ t.faulted = false)

/-- R71: at acceptance a legal word becomes pending, BUSY reads 1 and nothing else changes; an illegal word raises
ILLEGAL. -/
def Obligations.AcceptanceOfACommand : Prop :=
  ∀ (w : Word) (s : State), Spec.Idle s →
    (∀ i, decode w = .legal i → hostWrite cmdIndex w s = { s with pending := some w } ∧
      (hostRead statusIndex (hostWrite cmdIndex w s)).getLsbD 8 = true) ∧
    ∀ why, decode w = .illegal why → hostWrite cmdIndex w s = Spec.afterFault .illegal w s

/-! ## The engine -/

/-- A step runs the decoded command: the engine's turn runs `exec` of the command the pending word decodes to (R72). That
a step with no turn left is the engine's too is the model's choice (log entry 1). -/
def Obligations.StepRunsTheDecodedCommand : Prop :=
  ∀ (s : State) (w : Word) (i : Instr), s.faulted = false → s.pending = some w → decode w = .legal i →
    (∀ rest, s.script = .engine :: rest → step s = exec i { s with script := rest }) ∧
    (s.script = [] → step s = exec i s)

/-- The engine's turn (R72): with nothing enabled it changes nothing (the model's choice, log entry 1); with a legal command pending it answers a next
state in which the command is complete, LASTOP holding `w[31:28]`, or has faulted BOUNDS with its word and no result. -/
def Obligations.EngineTurnCompletesOrFaults : Prop :=
  ∀ (s : State) (rest : List Event), s.script = .engine :: rest →
    (s.pending = none ∨ s.faulted = true → step s = .next { s with script := rest }) ∧
    ∀ (w : Word) (i : Instr), s.faulted = false → s.pending = some w → decode w = .legal i →
      ∃ t, step s = .next t ∧
        (t = Spec.afterFault .bounds w { s with script := rest } ∨
          t.lastop.toNat = w.toNat / 2 ^ 28 ∧
            t = { s with
              pending := none, lastop := t.lastop, script := rest, verdict := t.verdict, result := t.result,
              crcCalc := t.crcCalc, crcRecv := t.crcRecv, hdr := t.hdr })

/-- The model's own reading of how a program is presented (log entry 11): after `withFetchWord` the very next step runs
the command of the word. -/
def Obligations.FetchWordRunsTheCommand : Prop :=
  ∀ (s : State) (w : Nat) (i : Instr), decodeTableWord 32 w = some i →
    step (s.withFetchWord 32 w) =
      exec i { s with
        pending := some (BitVec.ofNat 32 (w % 2 ^ 32)), faulted := false, faultCause := .none, faultInfo := 0#32 }

/-! ## The commands -/

/-- R200: NOP writes LASTOP and ends the pending command, nothing else; any other word with opcode 0 is illegal; a NOP
written while a command is pending overruns. -/
def Obligations.NopWritesLastopOnly : Prop :=
  (∀ s : State, exec .nop s = .next { s with lastop := 0x0#4, pending := none }) ∧
  decode 0x00000000#32 = .legal .nop ∧
  (∀ w : Word, w.toNat / 2 ^ 28 = 0 → w.toNat ≠ 0 → ∃ why, decode w = .illegal why) ∧
  ∀ s : State, s.faulted = false → s.pending ≠ none →
    hostWrite cmdIndex (encode .nop) s = Spec.afterFault .overrun 0x00#32 s

/-- R124: the word of EXT; EXT in bounds writes the field bit by bit, most significant first, zero above it, verdict OK
and LASTOP 1, and nothing else; out of bounds it faults BOUNDS with its word; `CNT > 64` or a non-zero `w[12:0]` is
illegal. -/
def Obligations.ExtReadsTheField : Prop :=
  (∀ (off : BitVec 8) (cnt : BitVec 7) (s : State), cnt.toNat ≤ 64 → off.toNat + cnt.toNat ≤ Spec.bufBits s →
    ∃ r : BitVec 64,
      exec (.ext off cnt) s = .next { s with result := r, verdict := .ok, lastop := 0x1#4, pending := none } ∧
      ∀ j, j < 64 →
        r.getLsbD j = (decide (j < cnt.toNat) && Spec.frameBit s.frame (off.toNat + cnt.toNat - 1 - j))) ∧
  (∀ (off : BitVec 8) (cnt : BitVec 7) (s : State), Spec.bufBits s < off.toNat + cnt.toNat →
    exec (.ext off cnt) s = .next (Spec.afterFault .bounds (encode (.ext off cnt)) s)) ∧
  (∀ (w : Word) (off : BitVec 8) (cnt : BitVec 7), cnt.toNat ≤ 64 →
    w.toNat = 0x1 * 2 ^ 28 + off.toNat * 2 ^ 20 + cnt.toNat * 2 ^ 13 → decode w = .legal (.ext off cnt)) ∧
  ∀ w : Word, w.toNat / 2 ^ 28 = 1 → w.toNat % 2 ^ 13 ≠ 0 ∨ 64 < w.toNat / 2 ^ 13 % 2 ^ 7 →
    ∃ why, decode w = .illegal why

/-- R121: a field is a value of `cnt` bits whose bit `cnt - 1 - i` is frame bit `off + i`; an empty field is 0; no other
frame bit is read. -/
def Obligations.FieldBitsAreFrameBits : Prop :=
  (∀ (m : Memory) (off cnt j : Nat),
    (frameBits m off cnt).testBit j = (decide (j < cnt) && Spec.frameBit m (off + cnt - 1 - j))) ∧
  (∀ (m : Memory) (off : Nat), frameBits m off 0 = 0) ∧
  ∀ (m m' : Memory) (off cnt : Nat), (∀ i, off ≤ i → i < off + cnt → Spec.frameBit m i = Spec.frameBit m' i) →
    frameBits m off cnt = frameBits m' off cnt

/-- R122: the barrel-shifter form, by a right shift and a mask and by a left shift and the top `cnt` bits. -/
def Obligations.BarrelShifterGivesTheField : Prop :=
  ∀ (m : Memory) (off cnt : Nat), off + cnt ≤ 256 →
    barrelBits m off cnt = frameBits m off cnt ∧
    ((frameNumber m <<< off) % 2 ^ 256) >>> (256 - cnt) = frameBits m off cnt

/-- R123: a command that needs bits past BUF_BITS faults BOUNDS with its word and no result; any other command, FVAL and
PARSE always, completes with the fault record as it was. -/
def Obligations.BoundsCheckOfEveryCommand : Prop :=
  ∀ (i : Instr) (s : State),
    (Spec.bufBits s < Spec.needed i → exec i s = .next (Spec.afterFault .bounds (encode i) s)) ∧
    (Spec.needed i ≤ Spec.bufBits s → ∃ t, exec i s = .next t ∧ t.pending = none ∧
      t.faulted = s.faulted ∧ t.faultCause = s.faultCause ∧ t.faultInfo = s.faultInfo ∧ t.lastop = opcode i)

/-- The frame of every command: no byte of FRAME, not FLEN, nor a parameter changes; a result register changes only
under its own commands; the fault record changes only when the command passes BUF_BITS, and then VERDICT and LASTOP do
not. -/
def Obligations.FrameOfEveryCommand : Prop :=
  ∀ (i : Instr) (s t : State), exec i s = .next t →
    (∀ a, t.frame.read a = s.frame.read a) ∧
    (t.frame = s.frame ∧ t.flen = s.flen ∧ t.params = s.params ∧ t.script = s.script ∧ t.reads = s.reads) ∧
    ((∀ off cnt, i ≠ .ext off cnt) → t.result = s.result) ∧
    ((∀ a n, i ≠ .crc a n ∧ i ≠ .chk a n) → t.crcCalc = s.crcCalc) ∧
    ((∀ a n, i ≠ .chk a n) → t.crcRecv = s.crcRecv) ∧
    (i ≠ .fval → i ≠ .parse → t.hdr = s.hdr) ∧
    (i = .nop → t.verdict = s.verdict) ∧
    (Spec.needed i ≤ Spec.bufBits s →
      t.faulted = s.faulted ∧ t.faultCause = s.faultCause ∧ t.faultInfo = s.faultInfo) ∧
    (Spec.bufBits s < Spec.needed i →
      t.result = s.result ∧ t.crcCalc = s.crcCalc ∧ t.crcRecv = s.crcRecv ∧ t.hdr = s.hdr ∧ t.verdict = s.verdict ∧
        t.lastop = s.lastop)

/-- No command reads outside the buffer's declared length (R120, R123, I10): frames that agree below BUF_BITS give the
same outcome, whatever the bytes past FLEN hold. -/
def Obligations.NothingPastTheDeclaredLengthIsRead : Prop :=
  ∀ (i : Instr) (s t : State) (m : Memory),
    (∀ b, b < Spec.bufBits s → Spec.frameBit s.frame b = Spec.frameBit m b) → exec i s = .next t →
      exec i { s with frame := m } = .next { t with frame := m }

/-- R142: the division step on numbers; with bit 24 of the generator set, the register stays below `2^24` and the
truncation to 25 bits "never discards a 1". -/
def Obligations.CrcStepKeepsBit24Clear : Prop :=
  ∀ (poly R : BitVec 25) (b : Bool), poly.getLsbD 24 = true → R.toNat < 2 ^ 24 →
    (crcStep poly R b).toNat = Spec.crcStep poly.toNat R.toNat b.toNat ∧
    (crcStep poly R b).toNat < 2 ^ 24 ∧
    (R.toNat ^^^ (b.toNat <<< 23)) <<< 1 < 2 ^ 25

/-- R146: the word of CRC; CRC in bounds writes the CRC of the range, computed on numbers as R142 and R143 say, verdict
OK and LASTOP 2, and nothing else; out of bounds it faults BOUNDS; a non-zero `w[10:0]` is illegal. -/
def Obligations.CrcComputesTheRange : Prop :=
  (∀ (start : BitVec 8) (n : BitVec 9) (s : State), start.toNat + n.toNat ≤ Spec.bufBits s →
    ∃ c : BitVec 24,
      exec (.crc start n) s = .next { s with crcCalc := c, verdict := .ok, lastop := 0x2#4, pending := none } ∧
      c.toNat = Spec.crcRange s.params.crcPoly.toNat s.frame start.toNat n.toNat) ∧
  (∀ (start : BitVec 8) (n : BitVec 9) (s : State), Spec.bufBits s < start.toNat + n.toNat →
    exec (.crc start n) s = .next (Spec.afterFault .bounds (encode (.crc start n)) s)) ∧
  (∀ (w : Word) (start : BitVec 8) (n : BitVec 9),
    w.toNat = 0x2 * 2 ^ 28 + start.toNat * 2 ^ 20 + n.toNat * 2 ^ 11 → decode w = .legal (.crc start n)) ∧
  ∀ w : Word, w.toNat / 2 ^ 28 = 2 → w.toNat % 2 ^ 11 ≠ 0 → ∃ why, decode w = .illegal why

/-- R147: the word of CHK; CHK in bounds writes the CRC of the range and the 24 bits after it, verdict OK or
CHECKSUM_ERROR as they agree, and LASTOP 3, and nothing else; out of bounds it faults BOUNDS. -/
def Obligations.ChkComparesRangeAndTrailer : Prop :=
  (∀ (start : BitVec 8) (n : BitVec 9) (s : State), start.toNat + n.toNat + 24 ≤ Spec.bufBits s →
    ∃ c r : BitVec 24,
      exec (.chk start n) s =
        .next { s with
          crcCalc := c, crcRecv := r, verdict := if c = r then .ok else .checksumError, lastop := 0x3#4,
          pending := none } ∧
      c.toNat = Spec.crcRange s.params.crcPoly.toNat s.frame start.toNat n.toNat ∧
      ∀ j, j < 24 → r.getLsbD j = Spec.frameBit s.frame (start.toNat + n.toNat + 23 - j)) ∧
  (∀ (start : BitVec 8) (n : BitVec 9) (s : State), Spec.bufBits s < start.toNat + n.toNat + 24 →
    exec (.chk start n) s = .next (Spec.afterFault .bounds (encode (.chk start n)) s)) ∧
  ∀ (w : Word) (start : BitVec 8) (n : BitVec 9),
    w.toNat = 0x3 * 2 ^ 28 + start.toNat * 2 ^ 20 + n.toNat * 2 ^ 11 → decode w = .legal (.chk start n)

/-- R145: the bit-serial range CRC equals the source's byte-wise procedure, over the 226 protected bits and, for a range
that starts on a byte, over any number of bits. -/
def Obligations.ByteWiseProcedureAgrees : Prop :=
  (∀ (poly : BitVec 25) (m : Memory), crcRange poly m 0 226 = crc226 poly m) ∧
  ∀ (poly : BitVec 25) (m : Memory) (k nbits : Nat), crcRange poly m (8 * k) nbits = Spec.byteWise poly m k nbits

/-- R148, first property, second half, for every generator "with at least two terms": a flip of any single bit of the
protected range changes the checksum, and makes the check of a frame that verified fail. -/
def Obligations.SingleBitFlipIsDetected : Prop :=
  ∀ (start : BitVec 8) (n : BitVec 9) (s : State) (m : Memory) (flip : Nat),
    s.params.crcPoly.getLsbD 24 = true → s.params.crcPoly.toNat ≠ 2 ^ 24 →
    start.toNat + n.toNat + 24 ≤ Spec.bufBits s → start.toNat ≤ flip → flip < start.toNat + n.toNat →
    Spec.frameBit s.frame flip ≠ Spec.frameBit m flip →
    (∀ b, b ≠ flip → Spec.frameBit s.frame b = Spec.frameBit m b) →
      crcRange s.params.crcPoly s.frame start.toNat n.toNat ≠ crcRange s.params.crcPoly m start.toNat n.toNat ∧
      ∀ t, exec (.chk start n) s = .next t → t.verdict = .ok →
        ∃ u, exec (.chk start n) { s with frame := m } = .next u ∧ u.verdict = .checksumError

/-- R148, first property, first half: a host that writes the computed checksum of an idle block's frame into the trailer
field, bits 29:6 of FRAME7, always makes the frame checksum-valid. -/
def Obligations.SealedFrameVerifies : Prop :=
  ∀ (s t : State) (c : BitVec 24), Spec.Idle s → s.frame.wf → s.flen = 32#16 →
    c = crcRange s.params.crcPoly s.frame 0 226 →
    t = hostWrite (frameIndex 7) (s.frame.readWord 7 &&& 0xC000003F#32 ||| c.setWidth 32 <<< 6) s →
      ∃ u, exec (.chk 0#8 226#9) t = .next u ∧ u.verdict = .ok ∧ u.crcCalc = c ∧ u.crcRecv = c

/-- The source's further claim in R148: with a generator divisible by `x + 1`, that is with an even number of terms, an
odd number of flipped bits in the range is always detected. -/
def Obligations.OddWeightErrorsAreDetected : Prop :=
  ∀ (poly : BitVec 25) (m m' : Memory) (start n : Nat), poly.getLsbD 24 = true →
    (List.range 25).countP (fun b => poly.getLsbD b) % 2 = 0 →
    (List.range n).countP (fun i => Spec.frameBit m (start + i) != Spec.frameBit m' (start + i)) % 2 = 1 →
      crcRange poly m start n ≠ crcRange poly m' start n

/-- The two derived facts of R148: a leading zero bit does not change the register, and the CRC of an all-zero range is
0. -/
def Obligations.LeadingZeroBitsDoNotChangeTheCrc : Prop :=
  (∀ (poly : BitVec 25) (m : Memory) (start n : Nat), Spec.frameBit m start = false →
    crcRange poly m start (n + 1) = crcRange poly m (start + 1) n) ∧
  ∀ (poly : BitVec 25) (m : Memory) (start n : Nat), (∀ b, start ≤ b → b < start + n → Spec.frameBit m b = false) →
    crcRange poly m start n = 0#24

/-- R170: the fixed fields as `FrameBits`, and in terms of the frame's bytes. -/
def Obligations.HeaderFieldsInBytes : Prop :=
  ∀ m : Memory,
    ((preField m).toNat = frameBits m 0 8 ∧ (mtField m).toNat = frameBits m 8 6 ∧ (rcField m).toNat = frameBits m 14 3 ∧
      (vnField m).toNat = frameBits m 214 6 ∧ (trailerField m).toNat = frameBits m 226 24) ∧
    preField m = m.read 0 ∧
    (mtField m).toNat = (m.read 1).toNat / 2 ^ 2 ∧
    (rcField m).toNat = (m.read 1).toNat % 2 ^ 2 * 2 + (m.read 2).toNat / 2 ^ 7 ∧
    (vnField m).toNat = (m.read 26).toNat % 2 ^ 2 * 2 ^ 4 + (m.read 27).toNat / 2 ^ 4 ∧
    (trailerField m).toNat =
      (m.read 28).toNat % 2 ^ 6 * 2 ^ 18 + (m.read 29).toNat * 2 ^ 10 + (m.read 30).toNat * 2 ^ 2 +
        (m.read 31).toNat / 2 ^ 6

/-- R178: the word of FVAL; FVAL always completes; it writes the verdict of the three checks, HDR whole, and LASTOP 4,
and nothing else. -/
def Obligations.FvalValidatesTheHeader : Prop :=
  decode 0x40000000#32 = .legal .fval ∧
  ∀ s : State, ∃ h : Hdr,
    exec .fval s =
      .next { s with hdr := h, verdict := Spec.validator s .ok, lastop := 0x4#4, pending := none } ∧
    (hdrWord h).toNat = if Spec.validator s .ok = .ok then Spec.hdrNumber s else 0

/-- R179: the word of PARSE; PARSE always completes; it writes the verdict of the whole gate chain, HDR whole, and
LASTOP 5, and nothing else. -/
def Obligations.ParseRunsTheGateChain : Prop :=
  decode 0x50000000#32 = .legal .parse ∧
  ∀ s : State, ∃ h : Hdr,
    exec .parse s =
      .next { s with hdr := h, verdict := Spec.parseVerdict s, lastop := 0x5#4, pending := none } ∧
    (hdrWord h).toNat = if Spec.parseVerdict s = .ok then Spec.hdrNumber s else 0

/-- R177: after FVAL and PARSE the host reads `hdr_of(frame)` when the verdict is OK, and 0 otherwise. -/
def Obligations.HeaderIsWholeOrZero : Prop :=
  ∀ (i : Instr) (s t : State), i = .fval ∨ i = .parse → exec i s = .next t →
    (t.verdict = .ok → (hostRead 9#6 t).toNat = Spec.hdrNumber s) ∧ (t.verdict ≠ .ok → hostRead 9#6 t = 0#32)

/-- R176: length, preamble, classification, checksum, version: a verdict is given exactly when every earlier check
passes and its own fails, so a bad classification hides a bad checksum, and a bad checksum hides a bad version. -/
def Obligations.ChecksRunInOrder : Prop :=
  ∀ s t : State, exec .parse s = .next t →
    (t.verdict = .invalidLength ↔ s.flen ≠ 32#16) ∧
    (t.verdict = .invalidPreamble ↔ s.flen = 32#16 ∧ knownPreamble s.params (s.frame.read 0) = false) ∧
    (t.verdict = .invalidClassification ↔
      s.flen = 32#16 ∧ knownPreamble s.params (s.frame.read 0) = true ∧ rcField s.frame ∉ s.params.rcCodes) ∧
    (t.verdict = .checksumError ↔
      s.flen = 32#16 ∧ knownPreamble s.params (s.frame.read 0) = true ∧ rcField s.frame ∈ s.params.rcCodes ∧
        crcRange s.params.crcPoly s.frame 0 226 ≠ trailerField s.frame) ∧
    (t.verdict = .unsupportedVersion ↔
      s.flen = 32#16 ∧ knownPreamble s.params (s.frame.read 0) = true ∧ rcField s.frame ∈ s.params.rcCodes ∧
        crcRange s.params.crcPoly s.frame 0 226 = trailerField s.frame ∧ s.frame.read 0 ≠ 0x53#8 ∧
        mtField s.frame = 43#6 ∧ vnField s.frame ∉ s.params.supportedVn)

/-- R180: a wrong length is INVALID_LENGTH whatever the frame, an unknown first byte is INVALID_PREAMBLE whatever the
rest, an unknown discriminator under pattern "B" never raises a version error, and two PARSE commands on an unchanged
input write the same verdict and header. -/
def Obligations.ParseConsequences : Prop :=
  (∀ (s : State) (m : Memory), s.flen ≠ 32#16 →
    ∃ t, exec .parse { s with frame := m } = .next { t with frame := m } ∧ exec .parse s = .next t ∧
      t.verdict = .invalidLength) ∧
  (∀ s : State, s.flen = 32#16 → s.frame.read 0 ≠ 0x53#8 → s.frame.read 0 ≠ s.params.preB →
    ∃ t, exec .parse s = .next t ∧ t.verdict = .invalidPreamble) ∧
  (∀ s t : State, mtField s.frame ≠ 43#6 → exec .parse s = .next t → t.verdict ≠ .unsupportedVersion) ∧
  ∀ s t u : State, exec .parse s = .next t → exec .parse t = .next u → u.verdict = t.verdict ∧ u.hdr = t.hdr

/-- The corner case of R179: frame bits 250..255 never affect the outcome of PARSE, nor of FVAL. -/
def Obligations.PaddingBitsAreNeverRead : Prop :=
  ∀ (i : Instr) (s t : State) (m : Memory), i = .fval ∨ i = .parse →
    (∀ b, b < 250 → Spec.frameBit s.frame b = Spec.frameBit m b) → exec i s = .next t →
      exec i { s with frame := m } = .next { t with frame := m }

/-! ## The whole machine -/

/-- The invariant holds at reset, with the default binding (the model's choice, log entry 3) and under every binding that
meets the constraints of R10. -/
def Obligations.InvariantAtReset : Prop :=
  Inv State.reset ∧ ∀ P : Params, P.WF → Inv { State.reset with params := P }

/-- Every step keeps the invariant: the parameters meet R10, the frame buffer stays in canonical form, only a legal
command is pending, the fault record and the header stay consistent, and LASTOP stays an opcode. -/
def Obligations.StepKeepsTheInvariant : Prop := ∀ s t : State, Inv s → step s = .next t → Inv t

/-- From a state that keeps the invariant a step answers a next state, but for a faulted block with no turn left (log
entry 4): no command and no access stops the machine. -/
def Obligations.OnlyAFaultedBlockStops : Prop :=
  ∀ s : State, Inv s →
    (∃ t, step s = .next t) ∨ s.faulted = true ∧ s.script = [] ∧ step s = .fault .blockFaulted

/-- R212: a step that records a fault makes the four writes of fault entry and nothing else, with the word of the
command or the byte address of the write that caused it. -/
def Obligations.FaultEntryIsExact : Prop :=
  ∀ s t : State, step s = .next t → s.faulted = false → t.faulted = true →
    ∃ cause info, t = Spec.afterFault cause info { s with script := t.script } ∧
      (cause = .bounds ∧ s.pending = some info ∨
        cause = .illegal ∧ s.pending = none ∧ (∃ rest, s.script = .write 0#6 info :: rest) ∨
        cause = .overrun ∧ s.pending ≠ none ∧
          ∃ k v rest, s.script = .write k v :: rest ∧ info = BitVec.ofNat 32 (4 * k.toNat))

/-- R215: a fault is fatal and the first one stays, through any run without the reset input; a faulted state is never
final, and with no turn left it is a fault outcome (the model's reading, log entry 4). -/
def Obligations.FaultsAreFatalAndDoNotNest : Prop :=
  (∀ (n : Nat) (s t : State), s.faulted = true → .reset ∉ s.script → Spec.run n s = .next t →
    t = { s with script := t.script, reads := t.reads }) ∧
  ∀ s : State, s.faulted = true → ¬ Final s ∧ (s.script = [] → step s = .fault .blockFaulted)

/-- The parameters are "not writable by any access" (R34): no run changes them. -/
def Obligations.ParametersNeverChange : Prop :=
  ∀ (n : Nat) (s t : State), Spec.run n s = .next t → t.params = s.params

/-- FRAME and FLEN are written only by the host, by an access to their own words in an idle block (R23, R24), or by the
reset input. -/
def Obligations.OnlyTheHostWritesTheInputs : Prop :=
  ∀ s t : State, step s = .next t → (∀ rest, s.script ≠ .reset :: rest) →
    (t.frame ≠ s.frame → Spec.Idle s ∧ ∃ j v rest, s.script = .write (frameIndex j) v :: rest) ∧
    (t.flen ≠ s.flen → Spec.Idle s ∧ ∃ v rest, s.script = .write 4#6 v :: rest)

/-- Who writes the result registers (R26, R29 to R32): RESULT only EXT, CRC_CALC only CRC and CHK, CRC_RECV only CHK,
HDR only FVAL and PARSE, VERDICT no NOP, LASTOP any command, each only by the engine; but for the reset input. -/
def Obligations.OnlyTheirCommandsWriteResults : Prop :=
  ∀ s t : State, step s = .next t → (∀ rest, s.script ≠ .reset :: rest) →
    (t.result ≠ s.result → Spec.Runs s fun i => rowName i == "EXT") ∧
    (t.crcCalc ≠ s.crcCalc → Spec.Runs s fun i => rowName i == "CRC" || rowName i == "CHK") ∧
    (t.crcRecv ≠ s.crcRecv → Spec.Runs s fun i => rowName i == "CHK") ∧
    (t.hdr ≠ s.hdr → Spec.Runs s fun i => rowName i == "FVAL" || rowName i == "PARSE") ∧
    (t.verdict ≠ s.verdict → Spec.Runs s fun i => rowName i != "NOP") ∧
    (t.lastop ≠ s.lastop → Spec.Runs s fun _ => true)

/-- The input of a pending command is frozen (R69, R77): as long as it stays pending, FRAME and FLEN keep their values.
-/
def Obligations.PendingInputIsFrozen : Prop :=
  ∀ (s t : State) (w : Word), s.pending = some w → step s = .next t → t.pending ≠ none →
    t.pending = some w ∧ t.frame = s.frame ∧ t.flen = s.flen

/-- No command stays pending for ever (R72, R246): from a state that keeps the invariant, a bounded number of steps takes
every turn of the script and leaves nothing pending. How a command stopped being pending (complete, abandoned by a fault,
or by the reset input) this does not say. That the engine's fair turn comes inside a WAIT and after the last turn is the
model's choice (log entries 1 and 7), and so is the bound that follows from it. -/
def Obligations.BoundedRunLeavesNothingPending : Prop :=
  ∀ s : State, Inv s → ∃ n t, n ≤ 3 * s.script.length + 1 ∧ Spec.run n s = .next t ∧ t.script = [] ∧ t.pending = none

/-- `ISSUE i; WAIT` on an idle block runs the command against the input as it stood and ends with BUSY 0 and the command's
outcome in place (R74, R242). That the WAIT polls exactly twice, BUSY 1 and then 0 with the engine's turn between, is the
model's choice (log entry 7). -/
def Obligations.IssueAndWaitRunsTheCommand : Prop :=
  ∀ (i : Instr) (s t : State) (rest : List Event), i.wf = true → Spec.Idle s →
    s.script = .write cmdIndex (encode i) :: .wait :: rest →
    exec i { s with pending := some (encode i), script := rest } = .next t →
      ∃ v1 v2, v1.getLsbD 8 = true ∧ v2.getLsbD 8 = false ∧ v2 = hostRead statusIndex t ∧
        Spec.run 4 s = .next { t with reads := ⟨statusIndex, v2⟩ :: ⟨statusIndex, v1⟩ :: s.reads }

/-- R243 for a host that waits by WAIT: one that writes no frozen register between a write to CMD and a WAIT never
overruns, in any run and with any turns of the engine. A host that waits by plain reads of STATUS has a statement of its
own, `WritesAfterBusyReadsZeroNeverOverrun`. -/
def Obligations.DisciplinedProgramsNeverOverrun : Prop :=
  ∀ (n : Nat) (s t : State), keepsBusyRule s.pending.isSome s.script = true → s.faultCause ≠ .overrun →
    Spec.run n s = .next t → t.faultCause ≠ .overrun

/-- R243 as an invariant: in every state, if the turns to come keep the busy rule and no OVERRUN is recorded, a step leaves
turns that keep it and records no OVERRUN. -/
def Obligations.BusyRuleIsKeptByEveryStep : Prop :=
  ∀ s t : State, keepsBusyRule s.pending.isSome s.script = true → s.faultCause ≠ .overrun → step s = .next t →
    keepsBusyRule t.pending.isSome t.script = true ∧ t.faultCause ≠ .overrun

/-- R243 and R244 for a host that waits by plain reads of STATUS: once a read returned BUSY 0, all the turns up to the
host's next write to CMD, that write too, leave the block without an OVERRUN. -/
def Obligations.WritesAfterBusyReadsZeroNeverOverrun : Prop :=
  ∀ (s : State) (turns rest : List Event),
    (hostRead statusIndex s).getLsbD 8 = false → s.faultCause ≠ .overrun → s.script = turns ++ rest →
    (∀ k v, Event.write k v ∈ turns → k ≠ cmdIndex) →
      ∃ t, Spec.run turns.length s = .next t ∧ t.script = rest ∧ t.faultCause ≠ .overrun ∧
        (hostRead statusIndex t).getLsbD 8 = false ∧
        ∀ (k : WordIndex) (v : Word) (later : List Event) (u : State), rest = .write k v :: later → step t = .next u →
          u.faultCause ≠ .overrun

/-- R82: a step of one instance leaves every other instance alone, and is that instance's own step. -/
def Obligations.InstancesAreIndependent : Prop :=
  ∀ (n : Nat) (bank after : List State), stepInstance n bank = .next after →
    after.length = bank.length ∧ (∀ k, k ≠ n → after[k]? = bank[k]?) ∧
      ∀ s, bank[n]? = some s → ∃ t, step s = .next t ∧ after[n]? = some t

/-- `LOADFRAME` (R102) on an idle block puts byte `i` of the frame at `FRAME[i]`, all 32 of them, and changes nothing
else. -/
def Obligations.LoadframeLoadsTheFrame : Prop :=
  ∀ (x : Vector Byte 32) (s : State) (rest : List Event), Spec.Idle s → s.frame.wf →
    s.script = expand (.loadframe x) ++ rest →
      ∃ t, Spec.run 8 s = .next t ∧ t = { s with script := rest, frame := t.frame } ∧
        ∀ (a : Nat) (h : a < 32), t.frame.read a = x[a]

/-- The assembler (R101) emits the word of the command it is given and refuses an operand out of range, so that `.word`
is "the only way to write an illegal word". -/
def Obligations.AssemblerEmitsOnlyLegalCommands : Prop :=
  (∀ (c : AsmCommand) (w : Word), assembleCommand c = some w →
    (∃ i, decode w = .legal i ∧ c = Spec.asmOf i) ∨ ∃ v, c = .word v ∧ w.toNat = v) ∧
  (∀ i : Instr, i.wf = true → assembleCommand (Spec.asmOf i) = some (encode i)) ∧
  (∀ off cnt, 256 ≤ off ∨ 64 < cnt → assembleCommand (.ext off cnt) = none) ∧
  ∀ start n, 256 ≤ start ∨ 512 ≤ n →
    assembleCommand (.crc start n) = none ∧ assembleCommand (.chk start n) = none
end

