-- ==== Sys2Proof/Laws/Encoding.lean ====
section
/-! SUPPORT. The words of the three formats as numbers, and the fields a word's number gives. -/

namespace Sys2Proof

/-- Two bit vectors laid side by side, as a number. -/
theorem append_toNat {m n : Nat} (x : BitVec m) (y : BitVec n) : (x ++ y).toNat = x.toNat * 2 ^ n + y.toNat := by
  rw [BitVec.toNat_append, ← Nat.shiftLeft_add_eq_or_of_lt y.isLt, Nat.shiftLeft_eq]

/-- A field of a word, as a number. -/
theorem field_toNat {n : Nat} (w : BitVec n) (lo len : Nat) : (w.extractLsb' lo len).toNat = w.toNat / 2 ^ lo % 2 ^ len := by
  rw [BitVec.extractLsb'_toNat, Nat.shiftRight_eq_div_pow]

theorem formatN_toNat (op : BitVec 4) : (formatN op).toNat = op.toNat * 2 ^ 28 := by
  rw [formatN, append_toNat, BitVec.toNat_ofNat]; omega

theorem formatX_toNat (op : BitVec 4) (off : BitVec 8) (cnt : BitVec 7) :
    (formatX op off cnt).toNat = op.toNat * 2 ^ 28 + off.toNat * 2 ^ 20 + cnt.toNat * 2 ^ 13 := by
  rw [formatX, append_toNat, append_toNat, append_toNat, BitVec.toNat_ofNat]; omega

theorem formatR_toNat (op : BitVec 4) (start : BitVec 8) (nbits : BitVec 9) :
    (formatR op start nbits).toNat = op.toNat * 2 ^ 28 + start.toNat * 2 ^ 20 + nbits.toNat * 2 ^ 11 := by
  rw [formatR, append_toNat, append_toNat, append_toNat, BitVec.toNat_ofNat]; omega

theorem opField_toNat (w : Word) : (opField w).toNat = w.toNat / 2 ^ 28 := by
  have := w.isLt
  rw [opField, field_toNat]; omega

theorem offField_toNat (w : Word) : (offField w).toNat = w.toNat / 2 ^ 20 % 2 ^ 8 := field_toNat w 20 8

theorem cntField_toNat (w : Word) : (cntField w).toNat = w.toNat / 2 ^ 13 % 2 ^ 7 := field_toNat w 13 7

theorem startField_toNat (w : Word) : (startField w).toNat = w.toNat / 2 ^ 20 % 2 ^ 8 := field_toNat w 20 8

theorem nbitsField_toNat (w : Word) : (nbitsField w).toNat = w.toNat / 2 ^ 11 % 2 ^ 9 := field_toNat w 11 9

end Sys2Proof
end

