-- ==== Sys2Proof/Laws/Frame.lean ====
section
/-! SUPPORT. The recursions of a field and of the CRC register, the bounds of a field and of the buffer, and the words of
the host port by index. -/

namespace Sys2Proof.Machine

@[simp] theorem frameBits_zero (m : Memory) (off : Nat) : frameBits m off 0 = 0 := rfl

theorem sum_map_shiftLeft_one (l : List Nat) (f : Nat → Nat) (g : Nat → Nat) (h : ∀ i ∈ l, f i = 2 * g i) :
    (l.map f).sum = 2 * (l.map g).sum := by
  induction l with
  | nil => rfl
  | cons a l ih =>
    simp only [List.map_cons, List.sum_cons, Nat.mul_add]
    rw [h a (by simp), ih fun i hi => h i (by simp [hi])]

/-- A field one bit longer: the value so far, doubled, and the next frame bit. -/
theorem frameBits_succ (m : Memory) (off cnt : Nat) :
    frameBits m off (cnt + 1) = 2 * frameBits m off cnt + (frameBit m (off + cnt)).toNat := by
  unfold frameBits
  rw [List.range_succ, List.map_append, List.sum_append]
  rw [sum_map_shiftLeft_one _ _ (fun i => (frameBit m (off + i)).toNat <<< (cnt - 1 - i))]
  · simp
  · intro i hi
    have hi := List.mem_range.mp hi
    rw [show cnt + 1 - 1 - i = cnt - 1 - i + 1 by omega, Nat.shiftLeft_succ]

/-- "It is a value of `cnt` bits" (R121). -/
theorem frameBits_lt (m : Memory) (off cnt : Nat) : frameBits m off cnt < 2 ^ cnt := by
  induction cnt with
  | zero => simp
  | succ n ih =>
    have := Bool.toNat_le (frameBit m (off + n))
    rw [frameBits_succ, Nat.pow_succ]
    omega

@[simp] theorem crcRegister_zero (poly : BitVec 25) (m : Memory) (start : Nat) : crcRegister poly m start 0 = 0#25 := rfl

/-- The register after one more frame bit (R143). -/
theorem crcRegister_succ (poly : BitVec 25) (m : Memory) (start nbits : Nat) :
    crcRegister poly m start (nbits + 1) =
      crcStep poly (crcRegister poly m start nbits) (frameBit m (start + nbits)) := by
  unfold crcRegister
  rw [List.range'_concat]
  simp

/-- The buffer's declared length is at most the frame's 256 bits (R123). -/
theorem bufBits_le (s : State) : bufBits s ≤ 256 := by
  unfold bufBits Config.frameBytes
  omega

/-- The word index of `FRAMEj` names `FRAMEj` (R63). -/
theorem regAt_frameIndex (j : Fin 8) : regAt (frameIndex j) = .frame j := by
  revert j
  decide

/-- A word index that names `FRAMEj` is that of `FRAMEj` (R63). -/
theorem regAt_frame {k : WordIndex} {j : Fin 8} (h : regAt k = .frame j) : k = frameIndex j := by
  revert k j
  decide

end Sys2Proof.Machine
end

