-- ==== Sys2Proof/Laws/Memory.lean ====
section
/-! SUPPORT. The laws of the frame buffer: a read after a write, the canonical form kept by every write, and equal reads
of canonical buffers meaning equal buffers. -/

namespace Sys2Proof.Machine

@[simp] theorem read_nil (a : Nat) : Memory.read [] a = unlistedByte := rfl

theorem read_cons (c : Host.Cell) (m : Memory) (a : Nat) :
    Memory.read (c :: m) a = if a = c.1 then c.2 else Memory.read m a := rfl

theorem read_place (a : Nat) (x : Byte) (m : Memory) (b : Nat) (h : b ≠ a) :
    (Memory.place a x m).read b = m.read b := by
  unfold Memory.place
  split
  · rfl
  · simp [read_cons, h]

/-- A byte that no entry is listed for reads as an unlisted byte. -/
theorem read_unlisted (m : Memory) (a : Nat) (h : ∀ c ∈ m, c.1 ≠ a) : m.read a = unlistedByte := by
  induction m with
  | nil => rfl
  | cons c m ih =>
    rw [read_cons, if_neg (Ne.symm (h c (by simp)))]
    exact ih fun d hd => h d (by simp [hd])

/-- A write leaves every other byte alone. -/
theorem read_write_other (m : Memory) (a b : Nat) (x : Byte) (h : b ≠ a) : (m.write a x).read b = m.read b := by
  induction m with
  | nil => exact read_place a x [] b h
  | cons c m ih =>
    obtain ⟨d, y⟩ := c
    simp only [Memory.write]
    split
    · exact read_place a x _ b h
    · split
      · rename_i hd
        rw [read_place a x m b h, read_cons, if_neg (by simpa [← hd] using h)]
      · simp only [read_cons, ih]

theorem read_place_same (a : Nat) (x : Byte) (m : Memory) (h : ∀ c ∈ m, c.1 ≠ a) :
    (Memory.place a x m).read a = x := by
  unfold Memory.place
  split
  · rename_i hx
    rw [read_unlisted m a h, hx]
  · simp [read_cons]

/-- In a canonical buffer a read after a write to the same byte gives the byte written. -/
theorem read_write_same (m : Memory) (a : Nat) (x : Byte) (h : m.Pairwise (fun c d => c.1 < d.1)) :
    (m.write a x).read a = x := by
  induction m with
  | nil => exact read_place_same a x [] (by simp)
  | cons c m ih =>
    obtain ⟨d, y⟩ := c
    obtain ⟨hd, hm⟩ := List.pairwise_cons.mp h
    simp only [Memory.write]
    split
    · rename_i hlt
      refine read_place_same a x _ fun e he => ?_
      rcases List.mem_cons.mp he with rfl | he
      · exact Nat.ne_of_gt hlt
      · exact Nat.ne_of_gt (Nat.lt_trans hlt (hd e he))
    · split
      · rename_i heq
        exact read_place_same a x m fun e he => heq ▸ Nat.ne_of_gt (hd e he)
      · rename_i hne
        rw [read_cons, if_neg hne]
        exact ih hm

theorem mem_place {a : Nat} {x : Byte} {m : Memory} {c : Host.Cell} (h : c ∈ Memory.place a x m) :
    c ∈ m ∨ c = (a, x) ∧ x ≠ unlistedByte := by
  unfold Memory.place at h
  split at h
  · exact .inl h
  · rename_i hx
    rcases List.mem_cons.mp h with rfl | h
    · exact .inr ⟨rfl, hx⟩
    · exact .inl h

/-- Every entry of a buffer after a write was there before, or is the byte written. -/
theorem mem_write {m : Memory} {a : Nat} {x : Byte} {c : Host.Cell} (h : c ∈ m.write a x) :
    c ∈ m ∨ c = (a, x) ∧ x ≠ unlistedByte := by
  induction m with
  | nil => exact mem_place h
  | cons d m ih =>
    obtain ⟨b, y⟩ := d
    simp only [Memory.write] at h
    split at h
    · exact mem_place h
    · split at h
      · exact (mem_place h).imp_left fun h => List.mem_cons_of_mem _ h
      · rcases List.mem_cons.mp h with rfl | h
        · exact .inl (by simp)
        · exact (ih h).imp_left fun h => List.mem_cons_of_mem _ h

theorem pairwise_place {a : Nat} {x : Byte} {m : Memory} (hm : m.Pairwise (fun c d => c.1 < d.1))
    (ha : ∀ c ∈ m, a < c.1) : (Memory.place a x m).Pairwise (fun c d => c.1 < d.1) := by
  unfold Memory.place
  split
  · exact hm
  · exact List.pairwise_cons.mpr ⟨ha, hm⟩

/-- A write keeps the entries strictly rising. -/
theorem pairwise_write {m : Memory} {a : Nat} {x : Byte} (h : m.Pairwise (fun c d => c.1 < d.1)) :
    (m.write a x).Pairwise (fun c d => c.1 < d.1) := by
  induction m with
  | nil => exact pairwise_place h (by simp)
  | cons c m ih =>
    obtain ⟨b, y⟩ := c
    obtain ⟨hb, hm⟩ := List.pairwise_cons.mp h
    simp only [Memory.write]
    split
    · rename_i hlt
      refine pairwise_place h fun e he => ?_
      rcases List.mem_cons.mp he with rfl | he
      · exact hlt
      · exact Nat.lt_trans hlt (hb e he)
    · split
      · rename_i heq
        exact pairwise_place hm fun e he => heq ▸ hb e he
      · rename_i hlt hne
        refine List.pairwise_cons.mpr ⟨fun e he => ?_, ih hm⟩
        rcases mem_write he with he | ⟨rfl, -⟩
        · exact hb e he
        · simp only; omega

/-- A write to a byte of the frame keeps the canonical form. -/
theorem write_wf {m : Memory} {a : Nat} {x : Byte} (h : m.wf) (ha : a < 32) : (m.write a x).wf := by
  refine ⟨pairwise_write h.1, fun c hc => ?_⟩
  rcases mem_write hc with hc | ⟨rfl, hx⟩
  · exact h.2 c hc
  · exact ⟨ha, hx⟩

/-- A write of a FRAME word keeps the canonical form. -/
theorem writeWord_wf {m : Memory} {j : Nat} {v : Word} (h : m.wf) (hj : j < 8) : (m.writeWord j v).wf :=
  write_wf (write_wf (write_wf (write_wf h (by omega)) (by omega)) (by omega)) (by omega)

/-- The buffer after reset is in canonical form. -/
theorem reset_frame_wf : State.reset.frame.wf := ⟨List.Pairwise.nil, fun _ h => by cases h⟩

/-- The bytes a FRAME word write leaves (R64). -/
theorem read_writeWord {m : Memory} {j : Nat} {v : Word} (h : m.wf) (a : Nat) :
    (m.writeWord j v).read a =
      if a = 4 * j then v.extractLsb' 24 8
      else if a = 4 * j + 1 then v.extractLsb' 16 8
      else if a = 4 * j + 2 then v.extractLsb' 8 8
      else if a = 4 * j + 3 then v.extractLsb' 0 8
      else m.read a := by
  have h1 := pairwise_write (a := 4 * j) (x := v.extractLsb' 24 8) h.1
  have h2 := pairwise_write (a := 4 * j + 1) (x := v.extractLsb' 16 8) h1
  have h3 := pairwise_write (a := 4 * j + 2) (x := v.extractLsb' 8 8) h2
  unfold Memory.writeWord
  by_cases e3 : a = 4 * j + 3
  · subst e3
    rw [read_write_same _ _ _ h3, if_neg (by omega), if_neg (by omega), if_neg (by omega), if_pos rfl]
  · rw [read_write_other _ _ _ _ e3, if_neg e3]
    by_cases e2 : a = 4 * j + 2
    · subst e2
      rw [read_write_same _ _ _ h2, if_neg (by omega), if_neg (by omega), if_pos rfl]
    · rw [read_write_other _ _ _ _ e2, if_neg e2]
      by_cases e1 : a = 4 * j + 1
      · subst e1
        rw [read_write_same _ _ _ h1, if_neg (by omega), if_pos rfl]
      · rw [read_write_other _ _ _ _ e1, if_neg e1]
        by_cases e0 : a = 4 * j
        · subst e0
          rw [read_write_same _ _ _ h.1, if_pos rfl]
        · rw [read_write_other _ _ _ _ e0, if_neg e0]

/-- In canonical form the first entry decides: two canonical buffers that read alike are the same data. -/
theorem wf_ext {m n : Memory} (hm : m.wf) (hn : n.wf) (h : ∀ a, m.read a = n.read a) : m = n := by
  induction m generalizing n with
  | nil =>
    cases n with
    | nil => rfl
    | cons d n =>
      have := h d.1
      rw [read_cons, if_pos rfl] at this
      exact absurd this.symm (hn.2 d (by simp)).2
  | cons c m ih =>
    cases n with
    | nil =>
      have := h c.1
      rw [read_cons, if_pos rfl] at this
      exact absurd this (hm.2 c (by simp)).2
    | cons d n =>
      obtain ⟨hc, hm'⟩ := List.pairwise_cons.mp hm.1
      obtain ⟨hd, hn'⟩ := List.pairwise_cons.mp hn.1
      have low : ∀ {l : Memory} {a b : Nat}, (∀ e ∈ l, b < e.1) → a ≤ b → l.read a = unlistedByte :=
        fun hl hab => read_unlisted _ _ fun e he => Nat.ne_of_gt (Nat.lt_of_le_of_lt hab (hl e he))
      have hcd : c.1 = d.1 := by
        rcases Nat.lt_trichotomy c.1 d.1 with hlt | heq | hgt
        · have := h c.1
          rw [read_cons, if_pos rfl, read_cons, if_neg (by omega), low hd (by omega)] at this
          exact absurd this (hm.2 c (by simp)).2
        · exact heq
        · have := h d.1
          rw [read_cons, if_neg (by omega), read_cons, if_pos rfl, low hc (by omega)] at this
          exact absurd this.symm (hn.2 d (by simp)).2
      have hval : c.2 = d.2 := by
        have := h c.1
        rwa [read_cons, if_pos rfl, read_cons, if_pos hcd] at this
      have hrest : m = n := by
        refine ih ⟨hm', fun e he => hm.2 e (by simp [he])⟩ ⟨hn', fun e he => hn.2 e (by simp [he])⟩ fun a => ?_
        by_cases ha : a = c.1
        · subst ha
          rw [low hc (Nat.le_refl _), low hd (Nat.le_of_eq hcd)]
        · have := h a
          rwa [read_cons, if_neg ha, read_cons, if_neg (by omega)] at this
      rw [hrest, Prod.ext hcd hval]

end Sys2Proof.Machine
end

