-- ==== Sys2Proof/Laws/PerInstr.lean ====
section
/-! SUPPORT. Statements for all instructions, one lemma per constructor. -/

namespace Sys2Proof.Laws

/-- The opcode field of a command's word is the command's opcode, and that opcode is one of the six of R96 (R91). -/
def OpcodeField.Statement (i : Instr) : Prop := opField (encode i) = opcode i ∧ (opcode i).toNat ≤ 5

theorem opField_formatX (op : BitVec 4) (off : BitVec 8) (cnt : BitVec 7) : opField (formatX op off cnt) = op := by
  apply BitVec.eq_of_toNat_eq
  rw [opField_toNat, formatX_toNat]
  omega

theorem opField_formatR (op : BitVec 4) (start : BitVec 8) (nbits : BitVec 9) :
    opField (formatR op start nbits) = op := by
  apply BitVec.eq_of_toNat_eq
  rw [opField_toNat, formatR_toNat]
  omega

theorem OpcodeField.nop : OpcodeField.Statement .nop := ⟨by decide, by decide⟩

theorem OpcodeField.ext (off : BitVec 8) (cnt : BitVec 7) : OpcodeField.Statement (.ext off cnt) :=
  ⟨opField_formatX _ off cnt, by simp [opcode]⟩

theorem OpcodeField.crc (start : BitVec 8) (nbits : BitVec 9) : OpcodeField.Statement (.crc start nbits) :=
  ⟨opField_formatR _ start nbits, by simp [opcode]⟩

theorem OpcodeField.chk (start : BitVec 8) (nbits : BitVec 9) : OpcodeField.Statement (.chk start nbits) :=
  ⟨opField_formatR _ start nbits, by simp [opcode]⟩

theorem OpcodeField.fval : OpcodeField.Statement .fval := ⟨by decide, by decide⟩

theorem OpcodeField.parse : OpcodeField.Statement .parse := ⟨by decide, by decide⟩

end Sys2Proof.Laws
end

