-- ==== Sys2Proof/Laws/State.lean ====
section
/-! SUPPORT. For every named update of the state, what each field is after it. -/

namespace Sys2Proof.Machine

variable (s : State)

@[simp] theorem raiseFault_frame (c : FaultCause) (w : Word) : (raiseFault c w s).frame = s.frame := rfl
@[simp] theorem raiseFault_flen (c : FaultCause) (w : Word) : (raiseFault c w s).flen = s.flen := rfl
@[simp] theorem raiseFault_pending (c : FaultCause) (w : Word) : (raiseFault c w s).pending = none := rfl
@[simp] theorem raiseFault_verdict (c : FaultCause) (w : Word) : (raiseFault c w s).verdict = s.verdict := rfl
@[simp] theorem raiseFault_lastop (c : FaultCause) (w : Word) : (raiseFault c w s).lastop = s.lastop := rfl
@[simp] theorem raiseFault_faulted (c : FaultCause) (w : Word) : (raiseFault c w s).faulted = true := rfl
@[simp] theorem raiseFault_faultCause (c : FaultCause) (w : Word) : (raiseFault c w s).faultCause = c := rfl
@[simp] theorem raiseFault_faultInfo (c : FaultCause) (w : Word) : (raiseFault c w s).faultInfo = w := rfl
@[simp] theorem raiseFault_result (c : FaultCause) (w : Word) : (raiseFault c w s).result = s.result := rfl
@[simp] theorem raiseFault_crcCalc (c : FaultCause) (w : Word) : (raiseFault c w s).crcCalc = s.crcCalc := rfl
@[simp] theorem raiseFault_crcRecv (c : FaultCause) (w : Word) : (raiseFault c w s).crcRecv = s.crcRecv := rfl
@[simp] theorem raiseFault_hdr (c : FaultCause) (w : Word) : (raiseFault c w s).hdr = s.hdr := rfl
@[simp] theorem raiseFault_params (c : FaultCause) (w : Word) : (raiseFault c w s).params = s.params := rfl
@[simp] theorem raiseFault_script (c : FaultCause) (w : Word) : (raiseFault c w s).script = s.script := rfl
@[simp] theorem raiseFault_reads (c : FaultCause) (w : Word) : (raiseFault c w s).reads = s.reads := rfl

@[simp] theorem setScript_frame (l : List Event) : (setScript l s).frame = s.frame := rfl
@[simp] theorem setScript_flen (l : List Event) : (setScript l s).flen = s.flen := rfl
@[simp] theorem setScript_pending (l : List Event) : (setScript l s).pending = s.pending := rfl
@[simp] theorem setScript_verdict (l : List Event) : (setScript l s).verdict = s.verdict := rfl
@[simp] theorem setScript_lastop (l : List Event) : (setScript l s).lastop = s.lastop := rfl
@[simp] theorem setScript_faulted (l : List Event) : (setScript l s).faulted = s.faulted := rfl
@[simp] theorem setScript_faultCause (l : List Event) : (setScript l s).faultCause = s.faultCause := rfl
@[simp] theorem setScript_faultInfo (l : List Event) : (setScript l s).faultInfo = s.faultInfo := rfl
@[simp] theorem setScript_result (l : List Event) : (setScript l s).result = s.result := rfl
@[simp] theorem setScript_crcCalc (l : List Event) : (setScript l s).crcCalc = s.crcCalc := rfl
@[simp] theorem setScript_crcRecv (l : List Event) : (setScript l s).crcRecv = s.crcRecv := rfl
@[simp] theorem setScript_hdr (l : List Event) : (setScript l s).hdr = s.hdr := rfl
@[simp] theorem setScript_params (l : List Event) : (setScript l s).params = s.params := rfl
@[simp] theorem setScript_script (l : List Event) : (setScript l s).script = l := rfl
@[simp] theorem setScript_reads (l : List Event) : (setScript l s).reads = s.reads := rfl

@[simp] theorem noteRead_frame (k : WordIndex) (v : Word) : (noteRead k v s).frame = s.frame := rfl
@[simp] theorem noteRead_flen (k : WordIndex) (v : Word) : (noteRead k v s).flen = s.flen := rfl
@[simp] theorem noteRead_pending (k : WordIndex) (v : Word) : (noteRead k v s).pending = s.pending := rfl
@[simp] theorem noteRead_verdict (k : WordIndex) (v : Word) : (noteRead k v s).verdict = s.verdict := rfl
@[simp] theorem noteRead_lastop (k : WordIndex) (v : Word) : (noteRead k v s).lastop = s.lastop := rfl
@[simp] theorem noteRead_faulted (k : WordIndex) (v : Word) : (noteRead k v s).faulted = s.faulted := rfl
@[simp] theorem noteRead_faultCause (k : WordIndex) (v : Word) : (noteRead k v s).faultCause = s.faultCause := rfl
@[simp] theorem noteRead_faultInfo (k : WordIndex) (v : Word) : (noteRead k v s).faultInfo = s.faultInfo := rfl
@[simp] theorem noteRead_result (k : WordIndex) (v : Word) : (noteRead k v s).result = s.result := rfl
@[simp] theorem noteRead_crcCalc (k : WordIndex) (v : Word) : (noteRead k v s).crcCalc = s.crcCalc := rfl
@[simp] theorem noteRead_crcRecv (k : WordIndex) (v : Word) : (noteRead k v s).crcRecv = s.crcRecv := rfl
@[simp] theorem noteRead_hdr (k : WordIndex) (v : Word) : (noteRead k v s).hdr = s.hdr := rfl
@[simp] theorem noteRead_params (k : WordIndex) (v : Word) : (noteRead k v s).params = s.params := rfl
@[simp] theorem noteRead_script (k : WordIndex) (v : Word) : (noteRead k v s).script = s.script := rfl
@[simp] theorem noteRead_reads (k : WordIndex) (v : Word) : (noteRead k v s).reads = ⟨k, v⟩ :: s.reads := rfl

@[simp] theorem setPending_frame (w : Word) : (setPending w s).frame = s.frame := rfl
@[simp] theorem setPending_flen (w : Word) : (setPending w s).flen = s.flen := rfl
@[simp] theorem setPending_pending (w : Word) : (setPending w s).pending = some w := rfl
@[simp] theorem setPending_verdict (w : Word) : (setPending w s).verdict = s.verdict := rfl
@[simp] theorem setPending_lastop (w : Word) : (setPending w s).lastop = s.lastop := rfl
@[simp] theorem setPending_faulted (w : Word) : (setPending w s).faulted = s.faulted := rfl
@[simp] theorem setPending_faultCause (w : Word) : (setPending w s).faultCause = s.faultCause := rfl
@[simp] theorem setPending_faultInfo (w : Word) : (setPending w s).faultInfo = s.faultInfo := rfl
@[simp] theorem setPending_result (w : Word) : (setPending w s).result = s.result := rfl
@[simp] theorem setPending_crcCalc (w : Word) : (setPending w s).crcCalc = s.crcCalc := rfl
@[simp] theorem setPending_crcRecv (w : Word) : (setPending w s).crcRecv = s.crcRecv := rfl
@[simp] theorem setPending_hdr (w : Word) : (setPending w s).hdr = s.hdr := rfl
@[simp] theorem setPending_params (w : Word) : (setPending w s).params = s.params := rfl
@[simp] theorem setPending_script (w : Word) : (setPending w s).script = s.script := rfl
@[simp] theorem setPending_reads (w : Word) : (setPending w s).reads = s.reads := rfl

@[simp] theorem setFlen_frame (n : BitVec 16) : (setFlen n s).frame = s.frame := rfl
@[simp] theorem setFlen_flen (n : BitVec 16) : (setFlen n s).flen = n := rfl
@[simp] theorem setFlen_pending (n : BitVec 16) : (setFlen n s).pending = s.pending := rfl
@[simp] theorem setFlen_verdict (n : BitVec 16) : (setFlen n s).verdict = s.verdict := rfl
@[simp] theorem setFlen_lastop (n : BitVec 16) : (setFlen n s).lastop = s.lastop := rfl
@[simp] theorem setFlen_faulted (n : BitVec 16) : (setFlen n s).faulted = s.faulted := rfl
@[simp] theorem setFlen_faultCause (n : BitVec 16) : (setFlen n s).faultCause = s.faultCause := rfl
@[simp] theorem setFlen_faultInfo (n : BitVec 16) : (setFlen n s).faultInfo = s.faultInfo := rfl
@[simp] theorem setFlen_result (n : BitVec 16) : (setFlen n s).result = s.result := rfl
@[simp] theorem setFlen_crcCalc (n : BitVec 16) : (setFlen n s).crcCalc = s.crcCalc := rfl
@[simp] theorem setFlen_crcRecv (n : BitVec 16) : (setFlen n s).crcRecv = s.crcRecv := rfl
@[simp] theorem setFlen_hdr (n : BitVec 16) : (setFlen n s).hdr = s.hdr := rfl
@[simp] theorem setFlen_params (n : BitVec 16) : (setFlen n s).params = s.params := rfl
@[simp] theorem setFlen_script (n : BitVec 16) : (setFlen n s).script = s.script := rfl
@[simp] theorem setFlen_reads (n : BitVec 16) : (setFlen n s).reads = s.reads := rfl

@[simp] theorem setFrameWord_frame (j : Fin 8) (v : Word) : (setFrameWord j v s).frame = s.frame.writeWord j.val v := rfl
@[simp] theorem setFrameWord_flen (j : Fin 8) (v : Word) : (setFrameWord j v s).flen = s.flen := rfl
@[simp] theorem setFrameWord_pending (j : Fin 8) (v : Word) : (setFrameWord j v s).pending = s.pending := rfl
@[simp] theorem setFrameWord_verdict (j : Fin 8) (v : Word) : (setFrameWord j v s).verdict = s.verdict := rfl
@[simp] theorem setFrameWord_lastop (j : Fin 8) (v : Word) : (setFrameWord j v s).lastop = s.lastop := rfl
@[simp] theorem setFrameWord_faulted (j : Fin 8) (v : Word) : (setFrameWord j v s).faulted = s.faulted := rfl
@[simp] theorem setFrameWord_faultCause (j : Fin 8) (v : Word) : (setFrameWord j v s).faultCause = s.faultCause := rfl
@[simp] theorem setFrameWord_faultInfo (j : Fin 8) (v : Word) : (setFrameWord j v s).faultInfo = s.faultInfo := rfl
@[simp] theorem setFrameWord_result (j : Fin 8) (v : Word) : (setFrameWord j v s).result = s.result := rfl
@[simp] theorem setFrameWord_crcCalc (j : Fin 8) (v : Word) : (setFrameWord j v s).crcCalc = s.crcCalc := rfl
@[simp] theorem setFrameWord_crcRecv (j : Fin 8) (v : Word) : (setFrameWord j v s).crcRecv = s.crcRecv := rfl
@[simp] theorem setFrameWord_hdr (j : Fin 8) (v : Word) : (setFrameWord j v s).hdr = s.hdr := rfl
@[simp] theorem setFrameWord_params (j : Fin 8) (v : Word) : (setFrameWord j v s).params = s.params := rfl
@[simp] theorem setFrameWord_script (j : Fin 8) (v : Word) : (setFrameWord j v s).script = s.script := rfl
@[simp] theorem setFrameWord_reads (j : Fin 8) (v : Word) : (setFrameWord j v s).reads = s.reads := rfl

@[simp] theorem setResult_frame (v : BitVec 64) : (setResult v s).frame = s.frame := rfl
@[simp] theorem setResult_flen (v : BitVec 64) : (setResult v s).flen = s.flen := rfl
@[simp] theorem setResult_pending (v : BitVec 64) : (setResult v s).pending = s.pending := rfl
@[simp] theorem setResult_verdict (v : BitVec 64) : (setResult v s).verdict = s.verdict := rfl
@[simp] theorem setResult_lastop (v : BitVec 64) : (setResult v s).lastop = s.lastop := rfl
@[simp] theorem setResult_faulted (v : BitVec 64) : (setResult v s).faulted = s.faulted := rfl
@[simp] theorem setResult_faultCause (v : BitVec 64) : (setResult v s).faultCause = s.faultCause := rfl
@[simp] theorem setResult_faultInfo (v : BitVec 64) : (setResult v s).faultInfo = s.faultInfo := rfl
@[simp] theorem setResult_result (v : BitVec 64) : (setResult v s).result = v := rfl
@[simp] theorem setResult_crcCalc (v : BitVec 64) : (setResult v s).crcCalc = s.crcCalc := rfl
@[simp] theorem setResult_crcRecv (v : BitVec 64) : (setResult v s).crcRecv = s.crcRecv := rfl
@[simp] theorem setResult_hdr (v : BitVec 64) : (setResult v s).hdr = s.hdr := rfl
@[simp] theorem setResult_params (v : BitVec 64) : (setResult v s).params = s.params := rfl
@[simp] theorem setResult_script (v : BitVec 64) : (setResult v s).script = s.script := rfl
@[simp] theorem setResult_reads (v : BitVec 64) : (setResult v s).reads = s.reads := rfl

@[simp] theorem setCrcCalc_frame (v : BitVec 24) : (setCrcCalc v s).frame = s.frame := rfl
@[simp] theorem setCrcCalc_flen (v : BitVec 24) : (setCrcCalc v s).flen = s.flen := rfl
@[simp] theorem setCrcCalc_pending (v : BitVec 24) : (setCrcCalc v s).pending = s.pending := rfl
@[simp] theorem setCrcCalc_verdict (v : BitVec 24) : (setCrcCalc v s).verdict = s.verdict := rfl
@[simp] theorem setCrcCalc_lastop (v : BitVec 24) : (setCrcCalc v s).lastop = s.lastop := rfl
@[simp] theorem setCrcCalc_faulted (v : BitVec 24) : (setCrcCalc v s).faulted = s.faulted := rfl
@[simp] theorem setCrcCalc_faultCause (v : BitVec 24) : (setCrcCalc v s).faultCause = s.faultCause := rfl
@[simp] theorem setCrcCalc_faultInfo (v : BitVec 24) : (setCrcCalc v s).faultInfo = s.faultInfo := rfl
@[simp] theorem setCrcCalc_result (v : BitVec 24) : (setCrcCalc v s).result = s.result := rfl
@[simp] theorem setCrcCalc_crcCalc (v : BitVec 24) : (setCrcCalc v s).crcCalc = v := rfl
@[simp] theorem setCrcCalc_crcRecv (v : BitVec 24) : (setCrcCalc v s).crcRecv = s.crcRecv := rfl
@[simp] theorem setCrcCalc_hdr (v : BitVec 24) : (setCrcCalc v s).hdr = s.hdr := rfl
@[simp] theorem setCrcCalc_params (v : BitVec 24) : (setCrcCalc v s).params = s.params := rfl
@[simp] theorem setCrcCalc_script (v : BitVec 24) : (setCrcCalc v s).script = s.script := rfl
@[simp] theorem setCrcCalc_reads (v : BitVec 24) : (setCrcCalc v s).reads = s.reads := rfl

@[simp] theorem setCrcRecv_frame (v : BitVec 24) : (setCrcRecv v s).frame = s.frame := rfl
@[simp] theorem setCrcRecv_flen (v : BitVec 24) : (setCrcRecv v s).flen = s.flen := rfl
@[simp] theorem setCrcRecv_pending (v : BitVec 24) : (setCrcRecv v s).pending = s.pending := rfl
@[simp] theorem setCrcRecv_verdict (v : BitVec 24) : (setCrcRecv v s).verdict = s.verdict := rfl
@[simp] theorem setCrcRecv_lastop (v : BitVec 24) : (setCrcRecv v s).lastop = s.lastop := rfl
@[simp] theorem setCrcRecv_faulted (v : BitVec 24) : (setCrcRecv v s).faulted = s.faulted := rfl
@[simp] theorem setCrcRecv_faultCause (v : BitVec 24) : (setCrcRecv v s).faultCause = s.faultCause := rfl
@[simp] theorem setCrcRecv_faultInfo (v : BitVec 24) : (setCrcRecv v s).faultInfo = s.faultInfo := rfl
@[simp] theorem setCrcRecv_result (v : BitVec 24) : (setCrcRecv v s).result = s.result := rfl
@[simp] theorem setCrcRecv_crcCalc (v : BitVec 24) : (setCrcRecv v s).crcCalc = s.crcCalc := rfl
@[simp] theorem setCrcRecv_crcRecv (v : BitVec 24) : (setCrcRecv v s).crcRecv = v := rfl
@[simp] theorem setCrcRecv_hdr (v : BitVec 24) : (setCrcRecv v s).hdr = s.hdr := rfl
@[simp] theorem setCrcRecv_params (v : BitVec 24) : (setCrcRecv v s).params = s.params := rfl
@[simp] theorem setCrcRecv_script (v : BitVec 24) : (setCrcRecv v s).script = s.script := rfl
@[simp] theorem setCrcRecv_reads (v : BitVec 24) : (setCrcRecv v s).reads = s.reads := rfl

@[simp] theorem setHdr_frame (h : Hdr) : (setHdr h s).frame = s.frame := rfl
@[simp] theorem setHdr_flen (h : Hdr) : (setHdr h s).flen = s.flen := rfl
@[simp] theorem setHdr_pending (h : Hdr) : (setHdr h s).pending = s.pending := rfl
@[simp] theorem setHdr_verdict (h : Hdr) : (setHdr h s).verdict = s.verdict := rfl
@[simp] theorem setHdr_lastop (h : Hdr) : (setHdr h s).lastop = s.lastop := rfl
@[simp] theorem setHdr_faulted (h : Hdr) : (setHdr h s).faulted = s.faulted := rfl
@[simp] theorem setHdr_faultCause (h : Hdr) : (setHdr h s).faultCause = s.faultCause := rfl
@[simp] theorem setHdr_faultInfo (h : Hdr) : (setHdr h s).faultInfo = s.faultInfo := rfl
@[simp] theorem setHdr_result (h : Hdr) : (setHdr h s).result = s.result := rfl
@[simp] theorem setHdr_crcCalc (h : Hdr) : (setHdr h s).crcCalc = s.crcCalc := rfl
@[simp] theorem setHdr_crcRecv (h : Hdr) : (setHdr h s).crcRecv = s.crcRecv := rfl
@[simp] theorem setHdr_hdr (h : Hdr) : (setHdr h s).hdr = h := rfl
@[simp] theorem setHdr_params (h : Hdr) : (setHdr h s).params = s.params := rfl
@[simp] theorem setHdr_script (h : Hdr) : (setHdr h s).script = s.script := rfl
@[simp] theorem setHdr_reads (h : Hdr) : (setHdr h s).reads = s.reads := rfl

@[simp] theorem setVerdict_frame (v : Verdict) : (setVerdict v s).frame = s.frame := rfl
@[simp] theorem setVerdict_flen (v : Verdict) : (setVerdict v s).flen = s.flen := rfl
@[simp] theorem setVerdict_pending (v : Verdict) : (setVerdict v s).pending = s.pending := rfl
@[simp] theorem setVerdict_verdict (v : Verdict) : (setVerdict v s).verdict = v := rfl
@[simp] theorem setVerdict_lastop (v : Verdict) : (setVerdict v s).lastop = s.lastop := rfl
@[simp] theorem setVerdict_faulted (v : Verdict) : (setVerdict v s).faulted = s.faulted := rfl
@[simp] theorem setVerdict_faultCause (v : Verdict) : (setVerdict v s).faultCause = s.faultCause := rfl
@[simp] theorem setVerdict_faultInfo (v : Verdict) : (setVerdict v s).faultInfo = s.faultInfo := rfl
@[simp] theorem setVerdict_result (v : Verdict) : (setVerdict v s).result = s.result := rfl
@[simp] theorem setVerdict_crcCalc (v : Verdict) : (setVerdict v s).crcCalc = s.crcCalc := rfl
@[simp] theorem setVerdict_crcRecv (v : Verdict) : (setVerdict v s).crcRecv = s.crcRecv := rfl
@[simp] theorem setVerdict_hdr (v : Verdict) : (setVerdict v s).hdr = s.hdr := rfl
@[simp] theorem setVerdict_params (v : Verdict) : (setVerdict v s).params = s.params := rfl
@[simp] theorem setVerdict_script (v : Verdict) : (setVerdict v s).script = s.script := rfl
@[simp] theorem setVerdict_reads (v : Verdict) : (setVerdict v s).reads = s.reads := rfl

@[simp] theorem complete_frame (i : Instr) : (complete i s).frame = s.frame := rfl
@[simp] theorem complete_flen (i : Instr) : (complete i s).flen = s.flen := rfl
@[simp] theorem complete_pending (i : Instr) : (complete i s).pending = none := rfl
@[simp] theorem complete_verdict (i : Instr) : (complete i s).verdict = s.verdict := rfl
@[simp] theorem complete_lastop (i : Instr) : (complete i s).lastop = opcode i := rfl
@[simp] theorem complete_faulted (i : Instr) : (complete i s).faulted = s.faulted := rfl
@[simp] theorem complete_faultCause (i : Instr) : (complete i s).faultCause = s.faultCause := rfl
@[simp] theorem complete_faultInfo (i : Instr) : (complete i s).faultInfo = s.faultInfo := rfl
@[simp] theorem complete_result (i : Instr) : (complete i s).result = s.result := rfl
@[simp] theorem complete_crcCalc (i : Instr) : (complete i s).crcCalc = s.crcCalc := rfl
@[simp] theorem complete_crcRecv (i : Instr) : (complete i s).crcRecv = s.crcRecv := rfl
@[simp] theorem complete_hdr (i : Instr) : (complete i s).hdr = s.hdr := rfl
@[simp] theorem complete_params (i : Instr) : (complete i s).params = s.params := rfl
@[simp] theorem complete_script (i : Instr) : (complete i s).script = s.script := rfl
@[simp] theorem complete_reads (i : Instr) : (complete i s).reads = s.reads := rfl

@[simp] theorem reportVerdict_frame (v : Verdict) : (reportVerdict v s).frame = s.frame := rfl
@[simp] theorem reportVerdict_flen (v : Verdict) : (reportVerdict v s).flen = s.flen := rfl
@[simp] theorem reportVerdict_pending (v : Verdict) : (reportVerdict v s).pending = s.pending := rfl
@[simp] theorem reportVerdict_verdict (v : Verdict) : (reportVerdict v s).verdict = v := rfl
@[simp] theorem reportVerdict_lastop (v : Verdict) : (reportVerdict v s).lastop = s.lastop := rfl
@[simp] theorem reportVerdict_faulted (v : Verdict) : (reportVerdict v s).faulted = s.faulted := rfl
@[simp] theorem reportVerdict_faultCause (v : Verdict) : (reportVerdict v s).faultCause = s.faultCause := rfl
@[simp] theorem reportVerdict_faultInfo (v : Verdict) : (reportVerdict v s).faultInfo = s.faultInfo := rfl
@[simp] theorem reportVerdict_result (v : Verdict) : (reportVerdict v s).result = s.result := rfl
@[simp] theorem reportVerdict_crcCalc (v : Verdict) : (reportVerdict v s).crcCalc = s.crcCalc := rfl
@[simp] theorem reportVerdict_crcRecv (v : Verdict) : (reportVerdict v s).crcRecv = s.crcRecv := rfl
@[simp] theorem reportVerdict_hdr (v : Verdict) : (reportVerdict v s).hdr = if v = .ok then hdrOf s.frame else Hdr.zero := rfl
@[simp] theorem reportVerdict_params (v : Verdict) : (reportVerdict v s).params = s.params := rfl
@[simp] theorem reportVerdict_script (v : Verdict) : (reportVerdict v s).script = s.script := rfl
@[simp] theorem reportVerdict_reads (v : Verdict) : (reportVerdict v s).reads = s.reads := rfl

@[simp] theorem resetBlock_frame : (resetBlock s).frame = State.reset.frame := rfl
@[simp] theorem resetBlock_flen : (resetBlock s).flen = State.reset.flen := rfl
@[simp] theorem resetBlock_pending : (resetBlock s).pending = State.reset.pending := rfl
@[simp] theorem resetBlock_verdict : (resetBlock s).verdict = State.reset.verdict := rfl
@[simp] theorem resetBlock_lastop : (resetBlock s).lastop = State.reset.lastop := rfl
@[simp] theorem resetBlock_faulted : (resetBlock s).faulted = State.reset.faulted := rfl
@[simp] theorem resetBlock_faultCause : (resetBlock s).faultCause = State.reset.faultCause := rfl
@[simp] theorem resetBlock_faultInfo : (resetBlock s).faultInfo = State.reset.faultInfo := rfl
@[simp] theorem resetBlock_result : (resetBlock s).result = State.reset.result := rfl
@[simp] theorem resetBlock_crcCalc : (resetBlock s).crcCalc = State.reset.crcCalc := rfl
@[simp] theorem resetBlock_crcRecv : (resetBlock s).crcRecv = State.reset.crcRecv := rfl
@[simp] theorem resetBlock_hdr : (resetBlock s).hdr = State.reset.hdr := rfl
@[simp] theorem resetBlock_params : (resetBlock s).params = s.params := rfl
@[simp] theorem resetBlock_script : (resetBlock s).script = s.script := rfl
@[simp] theorem resetBlock_reads : (resetBlock s).reads = s.reads := rfl

end Sys2Proof.Machine
end

