-- ==== Sys2Proof/Laws/Steps.lean ====
section
/-! SUPPORT. What each shared operation, turn and step can do, said once: later proofs cite these instead of unfolding. -/

namespace Sys2Proof.Machine

/-- The two ends of a range command (R123). -/
theorem rangeChecked_cases (i : Instr) (needed : Nat) (s t : State) :
    needed > bufBits s ∧ rangeChecked i needed s t = .next (raiseFault .bounds (encode i) s) ∨
      needed ≤ bufBits s ∧ rangeChecked i needed s t = .next (complete i t) := by
  unfold rangeChecked
  split
  · exact .inl ⟨‹_›, rfl⟩
  · exact .inr ⟨by omega, rfl⟩

/-- What an illegal or legal word does at acceptance (R71). -/
theorem accept_cases (w : Word) (s : State) :
    (∃ i, decode w = .legal i ∧ accept w s = setPending w s) ∨
      ∃ why, decode w = .illegal why ∧ accept w s = raiseFault .illegal w s := by
  unfold accept
  cases h : decode w with
  | legal i => exact .inl ⟨i, rfl, rfl⟩
  | illegal why => exact .inr ⟨why, rfl, rfl⟩

/-- The registers a write that is performed can reach (R68). -/
theorem writeReg_cases (k : WordIndex) (v : Word) (s : State) :
    regAt k = .cmd ∧ writeReg k v s = accept v s ∨
      regAt k = .flen ∧ writeReg k v s = setFlen (v.setWidth 16) s ∨
      (∃ j, regAt k = .frame j ∧ writeReg k v s = setFrameWord j v s) ∨
      frozenWhilePending (regAt k) = false ∧ writeReg k v s = s := by
  unfold writeReg
  cases h : regAt k <;> simp [frozenWhilePending]

/-- The cases of a host write (R68). -/
theorem hostWrite_cases (k : WordIndex) (v : Word) (s : State) :
    s.faulted = true ∧ hostWrite k v s = s ∨
      s.faulted = false ∧ frozenWhilePending (regAt k) = true ∧ busy s = true ∧
        hostWrite k v s = raiseFault .overrun (byteAddr k) s ∨
      s.faulted = false ∧ (frozenWhilePending (regAt k) = false ∨ busy s = false) ∧ hostWrite k v s = writeReg k v s := by
  unfold hostWrite
  cases hf : s.faulted <;> cases hz : frozenWhilePending (regAt k) <;> cases hb : busy s <;> simp

/-- The cases of the engine's turn (R72). -/
theorem engineStep_cases (s : State) :
    (s.faulted = true ∨ s.pending = none) ∧ engineStep s = .next s ∨
      ∃ w, s.faulted = false ∧ s.pending = some w ∧
        ((∃ i, decode w = .legal i ∧ engineStep s = exec i s) ∨
          ∃ why, decode w = .illegal why ∧ engineStep s = .refused (.pendingIllegal w)) := by
  unfold engineStep
  cases hf : s.faulted with
  | true => exact .inl ⟨.inl rfl, rfl⟩
  | false =>
    cases hp : s.pending with
    | none => exact .inl ⟨.inr rfl, rfl⟩
    | some w =>
      refine .inr ⟨w, rfl, rfl, ?_⟩
      cases hd : decode w with
      | legal i => exact .inl ⟨i, rfl, by simp [hd]⟩
      | illegal why => exact .inr ⟨why, rfl, by simp [hd]⟩

/-- Every command answers a next state: the fault entry of BOUNDS, for a range command only, or its completion after
result writes alone (R72). -/
theorem exec_cases (i : Instr) (s : State) :
    exec i s = .next (raiseFault .bounds (encode i) s) ∧
        ((∃ off cnt, i = .ext off cnt) ∨ (∃ a n, i = .crc a n) ∨ ∃ a n, i = .chk a n) ∨
      ∃ v r c d h, exec i s =
        .next (complete i { s with verdict := v, result := r, crcCalc := c, crcRecv := d, hdr := h }) := by
  cases i with
  | nop => exact .inr ⟨s.verdict, s.result, s.crcCalc, s.crcRecv, s.hdr, rfl⟩
  | ext off cnt =>
    rcases rangeChecked_cases (.ext off cnt) (off.toNat + cnt.toNat) s _ with ⟨-, h⟩ | ⟨-, h⟩
    · exact .inl ⟨h, .inl ⟨off, cnt, rfl⟩⟩
    · exact .inr ⟨.ok, _, s.crcCalc, s.crcRecv, s.hdr, h⟩
  | crc a n =>
    rcases rangeChecked_cases (.crc a n) (a.toNat + n.toNat) s _ with ⟨-, h⟩ | ⟨-, h⟩
    · exact .inl ⟨h, .inr (.inl ⟨a, n, rfl⟩)⟩
    · exact .inr ⟨.ok, s.result, _, s.crcRecv, s.hdr, h⟩
  | chk a n =>
    rcases rangeChecked_cases (.chk a n) (a.toNat + n.toNat + Config.trailerW) s _ with ⟨-, h⟩ | ⟨-, h⟩
    · exact .inl ⟨h, .inr (.inr ⟨a, n, rfl⟩)⟩
    · exact .inr ⟨_, s.result, _, _, s.hdr, h⟩
  | fval => exact .inr ⟨_, s.result, s.crcCalc, s.crcRecv, _, rfl⟩
  | parse => exact .inr ⟨_, s.result, s.crcCalc, s.crcRecv, _, rfl⟩

/-- The cases of a step: the quiet step, or one turn of the script. -/
theorem step_cases (s : State) :
    s.script = [] ∧ step s = quietStep s ∨ ∃ e rest, s.script = e :: rest ∧ step s = takeTurn e (setScript rest s) := by
  unfold step
  cases h : s.script with
  | nil => exact .inl ⟨rfl, rfl⟩
  | cons e rest => exact .inr ⟨e, rest, rfl, rfl⟩

end Sys2Proof.Machine
end

