-- ==== Sys2Proof/Tests/Slice0.lean ====
section
/-! SUPPORT. The model's own tests. Expected words, results and registers are those of the spec's vectors and worked
examples (95_test_vectors.md, named in each comment), or the words written out from the formats of R92 to R94. Then, for
every obligation with hypotheses, a witness that meets them, each clause at a boundary of its range. -/

namespace Sys2Proof.Tests

open Sys2Proof.Machine

-- The tests are checked one after another, which keeps the thread count of a module build low.
set_option Elab.async false

/-- A frame from its words `FRAME0`, `FRAME1`, and so on. -/
def frameOf (ws : List Word) : Memory := ws.zipIdx.foldl (fun m p => m.writeWord p.2 p.1) []

/-- Frame `T` of the catalogue. -/
def frameT : Memory :=
  frameOf [0x01234567#32, 0x89ABCDEF#32, 0x01234567#32, 0x89ABCDEF#32, 0x01234567#32, 0x89ABCDEF#32, 0x01234567#32,
    0x89ABCDEF#32]

/-- Frame `B1`: bit 0 set. -/
def frameB1 : Memory := frameOf [0x80000000#32]

/-- Frame `S4`, sealed: PRE `0x53`, MT 0, RC 3. -/
def frameS4 : Memory := frameOf [0x53018000#32, 0#32, 0#32, 0#32, 0#32, 0#32, 0#32, 0x2D705100#32]

/-- Frame `S4^100`: `S4` with bit 100 flipped. -/
def frameS4f : Memory := frameOf [0x53018000#32, 0#32, 0#32, 0x08000000#32, 0#32, 0#32, 0#32, 0x2D705100#32]

/-- Frame `S5`, sealed: PRE `0x9A`, MT 43, RC 3, VN 0. -/
def frameS5 : Memory := frameOf [0x9AAD8000#32, 0#32, 0#32, 0#32, 0#32, 0#32, 0#32, 0x102C1C80#32]

/-- Frame `S3X`: RC 0 and a bad checksum. -/
def frameS3X : Memory := frameOf [0x53000000#32, 0#32, 0#32, 0#32, 0#32, 0#32, 0#32, 0x34747E00#32]

/-- An idle block with a frame and its length presented. -/
def loaded (m : Memory) (n : Nat) : State := { State.reset with frame := m, flen := BitVec.ofNat 16 n }

/-- The same with a command accepted. -/
def accepted (i : Instr) (m : Memory) (n : Nat) : State := { loaded m n with pending := some (encode i) }

/-- A faulted block. -/
def broken : State := Spec.afterFault .illegal 0x1#32 State.reset

/-- What a register reads after an outcome; none after a fault or a refusal. -/
def readAfter (k : WordIndex) : Host.Outcome State Fault Refusal → Option Word
  | .next t => some (hostRead k t)
  | .fault _ => none
  | .refused _ => none

/-- The next state of an outcome. -/
def nextOf : Host.Outcome State Fault Refusal → Option State
  | .next t => some t
  | .fault _ => none
  | .refused _ => none

/-! ## Which commands are well formed -/

/-- R98: `CNT` may be 0 to 64. -/
theorem test_wf_refuses_wide_ext : (Instr.ext 0#8 65#7).wf = false ∧ (Instr.ext 255#8 127#7).wf = false := by decide

theorem test_wf_admits : (Instr.ext 255#8 64#7).wf = true ∧ (Instr.crc 255#8 511#9).wf = true := by decide

/-! ## Decoding, by words written out from R92 to R94 -/

theorem test_decode_nop : decode 0b0000_0000000000000000000000000000#32 = .legal .nop := by decide

/-- V-SRC-6b, `EXT 14, 3`. -/
theorem test_decode_ext : decode 0b0001_00001110_0000011_0000000000000#32 = .legal (.ext 14#8 3#7) := by decide

/-- V-CRC-5, `CRC 8, 72`. -/
theorem test_decode_crc : decode 0b0010_00001000_001001000_00000000000#32 = .legal (.crc 8#8 72#9) := by decide

/-- V-CHK-1, `CHK 0, 226`. -/
theorem test_decode_chk : decode 0b0011_00000000_011100010_00000000000#32 = .legal (.chk 0#8 226#9) := by decide

theorem test_decode_fval : decode 0b0100_0000000000000000000000000000#32 = .legal .fval := by decide

theorem test_decode_parse : decode 0b0101_0000000000000000000000000000#32 = .legal .parse := by decide

/-- V-DEC-2, 3, 5, 7, 9, 13 and 14. -/
theorem test_decode_illegal :
    decode 0x00000001#32 = .illegal .mustBeZero ∧ decode 0x10000001#32 = .illegal .mustBeZero ∧
      decode 0x10082000#32 = .illegal .widthOver64 ∧ decode 0x20000400#32 = .illegal .mustBeZero ∧
      decode 0x30000001#32 = .illegal .mustBeZero ∧ decode 0x58000000#32 = .illegal .mustBeZero ∧
      decode 0x60000000#32 = .illegal .reservedOpcode ∧ decode 0xFFFFFFFF#32 = .illegal .reservedOpcode := by decide

/-- The host's table words: 32 bits, and nothing for a value of more. -/
theorem test_decodeTableWord :
    decodeTableWord 32 0x1FF02000 = some (.ext 255#8 1#7) ∧ decodeTableWord 40 0x100000000 = none := by decide

/-- R101, by the assembler's text; `EXT 0, 65` "is refused by the assembler" (V-EXT-11). -/
theorem test_assemble :
    assemble "EXT 226, 24" = some 0x1E230000#32 ∧ assemble "CHK 0, 0xE2" = some 0x30071000#32 ∧
      assemble "EXT 0, 65" = none ∧ assemble ".word 0x10082000" = some 0x10082000#32 := by decide

/-! ## One step of every command -/

/-- V-NOP-3: the verdict before it stays. -/
theorem test_nop_keeps_verdict :
    readAfter 1#6 (step { accepted .nop frameS5 32 with verdict := .unsupportedVersion, lastop := 5#4 }) =
      some 0x00000005#32 := by decide

/-- V-NOP-1. -/
theorem test_nop_from_reset : readAfter 1#6 (step (accepted .nop [] 0)) = some 0x00000000#32 := by decide

/-- V-EXT-4, by its hand cross-check. -/
theorem test_ext_64_bits_across_9_bytes :
    readAfter 5#6 (step (accepted (.ext 4#8 64#7) frameT 32)) = some 0x12345678#32 ∧
      readAfter 6#6 (step (accepted (.ext 4#8 64#7) frameT 32)) = some 0x9ABCDEF0#32 := by decide

/-- V-EXT-8: one bit past the last. -/
theorem test_ext_out_of_bounds :
    readAfter 3#6 (step (accepted (.ext 255#8 2#7) frameT 32)) = some 0x1FF04000#32 ∧
      readAfter 1#6 (step (accepted (.ext 255#8 2#7) frameT 32)) = some 0x00000200#32 := by decide

/-- V-CRC-3, by its hand cross-check. -/
theorem test_crc_two_steps : readAfter 7#6 (step (accepted (.crc 0#8 2#9) frameB1 32)) = some 0x008AD50D#32 := by decide

/-- V-CRC-11: unaligned start and length. -/
theorem test_crc_unaligned : readAfter 7#6 (step (accepted (.crc 3#8 17#9) frameT 32)) = some 0x00E6A07D#32 := by
  decide +kernel

/-- V-CHK-11: `nbits = 0` compares 0 with bits 0..23. -/
theorem test_chk_empty_range :
    readAfter 8#6 (step (accepted (.chk 0#8 0#9) frameT 32)) = some 0x00012345#32 ∧
      readAfter 1#6 (step (accepted (.chk 0#8 0#9) frameT 32)) = some 0x00000034#32 := by decide

/-- V-CHK-1: the sealed frame. -/
theorem test_chk_sealed : readAfter 1#6 (step (accepted (.chk 0#8 226#9) frameS4 32)) = some 0x00000030#32 := by
  decide +kernel

/-- V-VAL-14a: FVAL does not see the checksum. -/
theorem test_fval_ignores_checksum : readAfter 9#6 (step (accepted .fval frameS4f 32)) = some 0x53018081#32 := by decide

/-- V-VAL-12a: `FLEN = 33`. -/
theorem test_fval_length : readAfter 1#6 (step (accepted .fval frameS4 33)) = some 0x00000041#32 := by decide

/-- V-VAL-5b: the JMA route and version 0. -/
theorem test_parse_version : readAfter 1#6 (step (accepted .parse frameS5 32)) = some 0x00000055#32 := by decide +kernel

/-- V-VAL-18b: a bad classification hides a bad checksum. -/
theorem test_parse_classification_first :
    readAfter 1#6 (step (accepted .parse frameS3X 32)) = some 0x00000053#32 := by decide +kernel

/-! ## Witnesses of the obligations -/

theorem test_witness_DecodeEncodeRoundTrip : (Instr.ext 255#8 64#7).wf = true ∧ (Instr.chk 255#8 511#9).wf = true := by
  decide

theorem test_witness_EncodeDecodeRoundTrip : decode 0x1FF80000#32 = .legal (.ext 255#8 64#7) := by decide

theorem test_witness_IllegalWordsAreThoseOfTheDecodeRule :
    decode 0x2FFFF800#32 = .legal (.crc 255#8 511#9) ∧ decode 0x10082000#32 = .illegal .widthOver64 ∧
      Spec.Idle State.reset := ⟨by decide, by decide, rfl, rfl⟩

theorem test_witness_OperandsAreUnsignedFields :
    decode 0x1FF80000#32 = .legal (.ext 255#8 64#7) ∧ decode 0x2FFFF800#32 = .legal (.crc 255#8 511#9) ∧
      decode 0x3FFFF800#32 = .legal (.chk 255#8 511#9) := by decide

theorem test_witness_ResetInputRestoresEveryRegister : { broken with script := [.reset] }.script = [.reset] := by decide

theorem test_witness_CommandsWithoutAFrame :
    State.reset.flen = 0#16 ∧ 1 ≤ (1#7).toNat ∧ 1 ≤ (1#9).toNat := by decide

theorem test_witness_ReadsReturnTheRegisterMap :
    (10 ≤ (10#6).toNat ∧ (15#6).toNat ≤ 15 ∧ 24 ≤ (24#6).toNat ∧ 24 ≤ (63#6).toNat) ∧
      16 ≤ (16#6).toNat ∧ (23#6).toNat ≤ 23 := by decide

theorem test_witness_UnmappedWordsReadZeroAndIgnoreWrites :
    ∀ k ∈ [10#6, 15#6, 24#6, 63#6], 10 ≤ k.toNat ∧ k.toNat ≤ 15 ∨ 24 ≤ k.toNat := by decide

theorem test_witness_ReadOnlyRegistersIgnoreWrites :
    ∀ k ∈ [1#6, 3#6, 5#6, 9#6], k.toNat ∈ [1, 2, 3, 5, 6, 7, 8, 9] := by decide

theorem test_witness_ReadsHaveNoSideEffect :
    { State.reset with script := [.read 63#6] }.script = [.read 63#6] ∧
      { broken with script := [.read 1#6, .read 1#6] }.script = [.read 1#6, .read 1#6] ∧
      (loaded frameT 32).pending = none := by decide

theorem test_witness_WritesByTheFirstMatchingCase :
    broken.faulted = true ∧
      ((accepted .nop frameT 32).faulted = false ∧ (accepted .nop frameT 32).pending ≠ none ∧ Spec.Frozen 0#6 ∧
        Spec.Frozen 4#6 ∧ Spec.Frozen 16#6 ∧ Spec.Frozen 23#6) ∧
      (Spec.Idle State.reset ∧ 4 * (0#6).toNat = 0x00 ∧ 4 * (4#6).toNat = 0x10 ∧ 4 * (16#6).toNat = 0x40 + 4 * 0 ∧
        4 * (23#6).toNat = 0x40 + 4 * 7) ∧
      ¬ Spec.Frozen 15#6 ∧ ¬ Spec.Frozen 24#6 := by
  unfold Spec.Frozen Spec.Idle
  decide

theorem test_witness_FrameWordsAreBigEndian : frameT.wf ∧ 0 < 8 ∧ 7 < 8 ∧ 0 < 32 ∧ 31 < 32 ∧ 255 < 256 := by decide

theorem test_witness_WritesWhilePendingOverrun :
    { accepted .nop frameT 32 with script := [.write 23#6 1#32] }.script = [.write 23#6 1#32] ∧
      { accepted .nop frameT 32 with script := [.write 23#6 1#32] }.faulted = false ∧
      { accepted .nop frameT 32 with script := [.write 23#6 1#32] }.pending = some 0#32 ∧ Spec.Frozen 23#6 := by
  unfold Spec.Frozen
  decide

/-- Each of the four turns meets its clause on a faulted block. -/
theorem test_witness_FaultedBlockIgnoresWrites :
    broken.faulted = true ∧ (nextOf (step { broken with script := [.engine] })).isSome = true ∧
      { broken with script := [.write 0#6 1#32] }.script = [.write 0#6 1#32] ∧
      { broken with script := [.read 3#6] }.script = [.read 3#6] ∧
      { broken with script := [.reset] }.script = [.reset] := by decide

theorem test_witness_AcceptanceOfACommand :
    Spec.Idle (loaded frameT 32) ∧ decode 0x10010000#32 = .legal (.ext 0#8 8#7) ∧
      decode 0x60000000#32 = .illegal .reservedOpcode := ⟨⟨rfl, rfl⟩, by decide, by decide⟩

theorem test_witness_StepRunsTheDecodedCommand :
    (accepted .parse frameS4 32).faulted = false ∧ (accepted .parse frameS4 32).pending = some 0x50000000#32 ∧
      decode 0x50000000#32 = .legal .parse ∧ (accepted .parse frameS4 32).script = [] ∧
      { accepted .parse frameS4 32 with script := [.engine] }.script = [.engine] := by decide

theorem test_witness_EngineTurnCompletesOrFaults :
    { broken with script := [.engine] }.faulted = true ∧ { loaded frameT 32 with script := [.engine] }.pending = none ∧
      { accepted (.ext 255#8 2#7) frameT 32 with script := [.engine] }.pending = some 0x1FF04000#32 ∧
      decode 0x1FF04000#32 = .legal (.ext 255#8 2#7) := by decide

theorem test_witness_FetchWordRunsTheCommand : decodeTableWord 32 0x50000000 = some .parse := by decide

theorem test_witness_NopWritesLastopOnly :
    (0x0FFFFFFF#32).toNat / 2 ^ 28 = 0 ∧ (0x0FFFFFFF#32).toNat ≠ 0 ∧ (0x00000001#32).toNat / 2 ^ 28 = 0 ∧
      (accepted .fval frameT 32).faulted = false ∧ (accepted .fval frameT 32).pending ≠ none := by decide

/-- In bounds at the last bit, out of bounds by one, and the two illegal forms. -/
theorem test_witness_ExtReadsTheField :
    ((64#7).toNat ≤ 64 ∧ (192#8).toNat + (64#7).toNat ≤ Spec.bufBits (loaded frameT 32)) ∧
      Spec.bufBits (loaded frameT 32) < (255#8).toNat + (2#7).toNat ∧
      (0x1FF80000#32).toNat = 0x1 * 2 ^ 28 + (255#8).toNat * 2 ^ 20 + (64#7).toNat * 2 ^ 13 ∧
      ((0x10000001#32).toNat / 2 ^ 28 = 1 ∧ (0x10000001#32).toNat % 2 ^ 13 ≠ 0) ∧
      (0x10082000#32).toNat / 2 ^ 28 = 1 ∧ 64 < (0x10082000#32).toNat / 2 ^ 13 % 2 ^ 7 := by decide

theorem test_witness_FieldBitsAreFrameBits : ∀ i, 0 ≤ i → i < 0 + 4 → Spec.frameBit frameS4 i = Spec.frameBit frameS4f i := by
  intro i _ h
  have all : ∀ i ∈ [0, 1, 2, 3], Spec.frameBit frameS4 i = Spec.frameBit frameS4f i := by decide
  exact all i (by simp; omega)

theorem test_witness_BarrelShifterGivesTheField : 255 + 1 ≤ 256 ∧ 0 + 256 ≤ 256 ∧ 256 + 0 ≤ 256 := by decide

theorem test_witness_BoundsCheckOfEveryCommand :
    Spec.bufBits (loaded frameT 31) < Spec.needed (.chk 0#8 226#9) ∧
      Spec.needed (.crc 0#8 256#9) ≤ Spec.bufBits (loaded frameT 32) ∧ Spec.needed .parse ≤ Spec.bufBits State.reset := by
  decide

/-- Every command answers a next state; one of them runs past `BUF_BITS`. -/
theorem test_witness_FrameOfEveryCommand :
    (nextOf (exec .nop (loaded frameT 32))).isSome = true ∧ (nextOf (exec .fval (loaded frameT 32))).isSome = true ∧
      Spec.needed (.ext 0#8 8#7) ≤ Spec.bufBits (loaded frameT 1) ∧
      Spec.bufBits (loaded frameT 1) < Spec.needed (.ext 1#8 8#7) := by decide

/-- `FLEN = 0`: any two frames agree below `BUF_BITS`. -/
theorem test_witness_NothingPastTheDeclaredLengthIsRead :
    (∀ b, b < Spec.bufBits (loaded frameT 0) → Spec.frameBit frameT b = Spec.frameBit frameS4 b) ∧
      (nextOf (exec .parse (loaded frameT 0))).isSome = true :=
  ⟨fun b h => absurd h (Nat.not_lt_zero b), rfl⟩

theorem test_witness_CrcStepKeepsBit24Clear :
    (0x1864CFB#25).getLsbD 24 = true ∧ (0x0FFFFFF#25).toNat < 2 ^ 24 := by decide

/-- In bounds at the last bit, out of bounds by one, and an illegal form. -/
theorem test_witness_CrcComputesTheRange :
    (0#8).toNat + (256#9).toNat ≤ Spec.bufBits (loaded frameT 32) ∧
      Spec.bufBits (loaded frameT 32) < (0#8).toNat + (257#9).toNat ∧
      (0x2FFFF800#32).toNat = 0x2 * 2 ^ 28 + (255#8).toNat * 2 ^ 20 + (511#9).toNat * 2 ^ 11 ∧ (0x20000400#32).toNat / 2 ^ 28 = 2 ∧
      (0x20000400#32).toNat % 2 ^ 11 ≠ 0 := by decide

/-- In bounds at the last trailer bit, and out of bounds by one. -/
theorem test_witness_ChkComparesRangeAndTrailer :
    (0#8).toNat + (232#9).toNat + 24 ≤ Spec.bufBits (loaded frameT 32) ∧
      Spec.bufBits (loaded frameT 32) < (0#8).toNat + (233#9).toNat + 24 ∧
      (0x3FFFF800#32).toNat = 0x3 * 2 ^ 28 + (255#8).toNat * 2 ^ 20 + (511#9).toNat * 2 ^ 11 := by decide

/-- A frame and the same frame with bit 100 flipped. -/
theorem test_witness_SingleBitFlipIsDetected :
    ((loaded frameS4 32).params.crcPoly.getLsbD 24 = true ∧ (loaded frameS4 32).params.crcPoly.toNat ≠ 2 ^ 24 ∧
      (0#8).toNat + (226#9).toNat + 24 ≤ Spec.bufBits (loaded frameS4 32) ∧ (0#8).toNat ≤ 100 ∧
      100 < (0#8).toNat + (226#9).toNat ∧ Spec.frameBit frameS4 100 ≠ Spec.frameBit frameS4f 100) ∧
      ∀ b, b ≠ 100 → Spec.frameBit frameS4 b = Spec.frameBit frameS4f b := by
  refine ⟨by decide, fun b hb => ?_⟩
  have h : ∀ b ∈ List.range 256, b ≠ 100 → Spec.frameBit frameS4 b = Spec.frameBit frameS4f b := by decide +kernel
  rcases Nat.lt_or_ge b 256 with hl | hg
  · exact h b (List.mem_range.mpr hl) hb
  · have hr : ∀ m : Memory, (∀ c ∈ m, c.1 < 32) → m.read (b / 8) = unlistedByte := by
      intro m
      induction m with
      | nil => intro _; rfl
      | cons c m ih =>
        intro hm
        have := hm c (by simp)
        rw [Memory.read, if_neg (by omega)]
        exact ih fun d hd => hm d (by simp [hd])
    unfold Spec.frameBit
    rw [hr frameS4 (by decide), hr frameS4f (by decide)]

/-- The check of the unflipped frame answers OK. -/
theorem test_witness_SingleBitFlip_verified :
    (nextOf (exec (.chk 0#8 226#9) (loaded frameS4 32))).map (fun t => t.verdict) = some .ok := by decide +kernel

theorem test_witness_SealedFrameVerifies :
    Spec.Idle (loaded frameT 32) ∧ (loaded frameT 32).frame.wf ∧ (loaded frameT 32).flen = 32#16 :=
  ⟨⟨rfl, rfl⟩, by decide, rfl⟩

/-- The default generator has an even number of terms; `B1` and the zero frame differ in one bit. -/
theorem test_witness_OddWeightErrorsAreDetected :
    (0x1864CFB#25).getLsbD 24 = true ∧ (List.range 25).countP (fun b => (0x1864CFB#25).getLsbD b) % 2 = 0 ∧
      (List.range 72).countP (fun i => Spec.frameBit frameB1 (0 + i) != Spec.frameBit [] (0 + i)) % 2 = 1 := by
  decide +kernel

theorem test_witness_LeadingZeroBitsDoNotChangeTheCrc :
    Spec.frameBit frameT 0 = false ∧ ∀ b, 0 ≤ b → b < 0 + 256 → Spec.frameBit [] b = false := by
  refine ⟨by decide, fun b _ _ => ?_⟩
  simp [Spec.frameBit, Memory.read, unlistedByte]

theorem test_witness_HeaderIsWholeOrZero :
    (nextOf (exec .parse (loaded frameS4 32))).map (fun t => t.verdict) = some .ok ∧
      (nextOf (exec .fval (loaded frameS3X 32))).map (fun t => t.verdict) = some .invalidClassification := by
  decide +kernel

/-- All six verdicts occur. -/
theorem test_witness_ChecksRunInOrder :
    [(frameS4, 31), (frameT, 32), (frameS3X, 32), (frameS4f, 32), (frameS5, 32), (frameS4, 32)].map (fun p =>
      (nextOf (exec .parse (loaded p.1 p.2))).map fun t => t.verdict) =
    [some .invalidLength, some .invalidPreamble, some .invalidClassification, some .checksumError,
      some .unsupportedVersion, some .ok] := by decide +kernel

theorem test_witness_ParseConsequences :
    (loaded frameS4 33).flen ≠ 32#16 ∧
      ((loaded frameT 32).flen = 32#16 ∧ (loaded frameT 32).frame.read 0 ≠ 0x53#8 ∧
        (loaded frameT 32).frame.read 0 ≠ (loaded frameT 32).params.preB) ∧
      mtField (loaded frameS4 32).frame ≠ 43#6 ∧ (nextOf (exec .parse (loaded frameS4 32))).isSome = true := by
  decide +kernel

/-- `S4` and `S4` with its padding bit 255 set. -/
theorem test_witness_PaddingBitsAreNeverRead :
    (∀ b, b < 250 → Spec.frameBit frameS4 b = Spec.frameBit (frameS4.write 31 0x01#8) b) ∧
      (nextOf (exec .parse (loaded frameS4 32))).isSome = true := by
  refine ⟨fun b hb => ?_, by decide +kernel⟩
  have h : ∀ b ∈ List.range 250, Spec.frameBit frameS4 b = Spec.frameBit (frameS4.write 31 0x01#8) b := by decide +kernel
  exact h b (List.mem_range.mpr hb)

theorem test_witness_InvariantAtReset : Params.default.WF := by decide

/-- A busy block keeps the invariant, and its step answers a next state. -/
theorem test_witness_StepKeepsTheInvariant :
    Inv (accepted (.chk 0#8 226#9) frameS4 32) ∧ (nextOf (step (accepted (.chk 0#8 226#9) frameS4 32))).isSome = true := by
  decide +kernel

/-- Both ends: a state that steps, and a faulted block without turns. -/
theorem test_witness_OnlyAFaultedBlockStops :
    Inv (accepted .nop frameT 32) ∧ Inv broken ∧ broken.faulted = true ∧ broken.script = [] := by decide +kernel

/-- Each of the three causes is raised by a step of a block without a fault. -/
theorem test_witness_FaultEntryIsExact :
    (nextOf (step (accepted (.ext 255#8 2#7) frameT 32))).map (fun t => (t.faulted, t.faultCause)) = some (true, .bounds) ∧
      (nextOf (step { loaded frameT 32 with script := [.write 0#6 1#32] })).map (fun t => (t.faulted, t.faultCause)) =
        some (true, .illegal) ∧
      (nextOf (step { accepted .nop frameT 32 with script := [.write 23#6 1#32] })).map
          (fun t => (t.faulted, t.faultCause)) = some (true, .overrun) := by decide

theorem test_witness_FaultsAreFatalAndDoNotNest :
    { broken with script := [.write 0#6 0#32, .wait] }.faulted = true ∧
      Event.reset ∉ { broken with script := [.write 0#6 0#32, .wait] }.script ∧
      (nextOf (Spec.run 2 { broken with script := [.write 0#6 0#32, .wait] })).isSome = true ∧ broken.script = [] := by
  decide

theorem test_witness_ParametersNeverChange :
    (nextOf (Spec.run 2 { loaded frameT 32 with script := [.write 0#6 0#32, .engine] })).isSome = true := by decide

/-- A write that does change `FRAME`, and one that does change `FLEN`. -/
theorem test_witness_OnlyTheHostWritesTheInputs :
    (nextOf (step { State.reset with script := [.write 16#6 1#32] })).map (fun t => decide (t.frame ≠ [])) = some true ∧
      (nextOf (step { State.reset with script := [.write 4#6 32#32] })).map (fun t => decide (t.flen ≠ 0#16)) =
        some true := by decide

/-- Each result register does change. -/
theorem test_witness_OnlyTheirCommandsWriteResults :
    (nextOf (step (accepted (.ext 0#8 8#7) frameT 32))).map (fun t => decide (t.result ≠ 0#64 ∧ t.lastop ≠ 0#4)) =
        some true ∧
      (nextOf (step (accepted (.chk 0#8 8#9) frameT 32))).map
          (fun t => decide (t.crcCalc ≠ 0#24 ∧ t.crcRecv ≠ 0#24 ∧ t.verdict ≠ .ok)) = some true ∧
      (nextOf (step (accepted .fval frameS4 32))).map (fun t => decide (t.hdr ≠ Hdr.zero)) = some true := by
  decide +kernel

/-- A read while the command is pending leaves it pending. -/
theorem test_witness_PendingInputIsFrozen :
    (nextOf (step { accepted .nop frameT 32 with script := [.read 1#6] })).map (fun t => t.pending) =
      some (some 0#32) := by decide

theorem test_witness_BoundedRunLeavesNothingPending :
    Inv { accepted (.crc 0#8 16#9) frameT 32 with script := [.wait, .read 7#6] } := by decide +kernel

theorem test_witness_IssueAndWaitRunsTheCommand :
    (Instr.ext 4#8 8#7).wf = true ∧ Spec.Idle (loaded frameT 32) ∧
      { loaded frameT 32 with script := [.write cmdIndex (encode (.ext 4#8 8#7)), .wait] }.script =
        [.write cmdIndex (encode (.ext 4#8 8#7)), .wait] ∧
      (nextOf (exec (.ext 4#8 8#7) (accepted (.ext 4#8 8#7) frameT 32))).isSome = true :=
  ⟨by decide, ⟨rfl, rfl⟩, by decide, by decide⟩

/-- A disciplined program, and one that is not. -/
theorem test_witness_DisciplinedProgramsNeverOverrun :
    keepsBusyRule false [.write 16#6 1#32, .write 0#6 0#32, .wait, .write 16#6 2#32] = true ∧
      keepsBusyRule false [.write 0#6 0#32, .write 16#6 2#32, .wait] = false ∧
      State.reset.faultCause ≠ .overrun ∧
      (nextOf (Spec.run 2 { State.reset with script := [.write 16#6 1#32, .write 0#6 0#32, .wait] })).isSome = true := by
  decide

theorem test_witness_BusyRuleIsKeptByEveryStep :
    keepsBusyRule (accepted .nop frameT 32).pending.isSome [.read 1#6, .wait, .write 16#6 2#32] = true ∧
      (accepted .nop frameT 32).faultCause ≠ .overrun ∧
      (nextOf (step { accepted .nop frameT 32 with script := [.read 1#6, .wait, .write 16#6 2#32] })).isSome = true := by
  decide

/-- An idle block; a frame word and an engine turn, then the next command. -/
theorem test_witness_WritesAfterBusyReadsZeroNeverOverrun :
    (hostRead statusIndex { loaded frameT 32 with script := [.write 23#6 1#32, .engine, .write cmdIndex 0#32] }).getLsbD
        8 = false ∧ (loaded frameT 32).faultCause ≠ .overrun ∧
      (∀ k v, Event.write k v ∈ [.write 23#6 1#32, .engine] → k ≠ cmdIndex) ∧
      (nextOf (Spec.run 3 { loaded frameT 32 with script := [.write 23#6 1#32, .engine, .write cmdIndex 0#32] })).isSome =
        true := by
  refine ⟨by decide, by decide, fun k v h => ?_, by decide⟩
  simp only [List.mem_cons, List.not_mem_nil, or_false, reduceCtorEq, Event.write.injEq] at h
  rw [h.1]
  decide

theorem test_witness_InstancesAreIndependent :
    (match stepInstance 1 [loaded frameT 32, accepted .nop frameS4 32] with
      | .next after => some after.length
      | .fault _ => none
      | .refused _ => none) = some 2 ∧ [loaded frameT 32, accepted .nop frameS4 32][1]? = some (accepted .nop frameS4 32) := by
  decide

theorem test_witness_LoadframeLoadsTheFrame :
    Spec.Idle State.reset ∧ State.reset.frame.wf ∧
      { State.reset with script := expand (.loadframe (Vector.replicate 32 0xA5#8)) }.script =
        expand (.loadframe (Vector.replicate 32 0xA5#8)) ++ [] := ⟨⟨rfl, rfl⟩, by decide, by decide⟩

theorem test_witness_AssemblerEmitsOnlyLegalCommands :
    assembleCommand (.ext 255 64) = some 0x1FF80000#32 ∧ assembleCommand (.word 0xFFFFFFFF) = some 0xFFFFFFFF#32 ∧
      (Instr.crc 255#8 511#9).wf = true ∧ (256 ≤ 256 ∨ 64 < 64) ∧ (256 ≤ 255 ∨ 64 < 65) ∧ (256 ≤ 256 ∨ 512 ≤ 511) ∧
      (256 ≤ 255 ∨ 512 ≤ 512) := by decide

end Sys2Proof.Tests
end

/-! PROOF. The register map and the host port: which word indices name which registers, and what a host write does in
each case of R68. -/

namespace Sys2Proof.Machine

/-! ## The register map (R63) -/

/-- The registers a pending command freezes are those at the byte addresses R68 lists. -/
theorem frozenWhilePending_regAt_iff (k : WordIndex) : frozenWhilePending (regAt k) = true ↔ Spec.Frozen k := by
  unfold Spec.Frozen
  revert k
  decide

/-- The gaps of the map (R65). -/
theorem regAt_eq_unmapped {k : WordIndex} (h : 10 ≤ k.toNat ∧ k.toNat ≤ 15 ∨ 24 ≤ k.toNat) : regAt k = .unmapped := by
  revert k
  decide

theorem eq_cmdIndex {k : WordIndex} (h : 4 * k.toNat = 0x00) : k = cmdIndex :=
  BitVec.eq_of_toNat_eq (by rw [cmdIndex, BitVec.toNat_ofNat]; omega)

theorem eq_flenIndex {k : WordIndex} (h : 4 * k.toNat = 0x10) : k = flenIndex :=
  BitVec.eq_of_toNat_eq (by rw [flenIndex, BitVec.toNat_ofNat]; omega)

theorem eq_frameIndex {k : WordIndex} {j : Fin 8} (h : 4 * k.toNat = 0x40 + 4 * j.val) : k = frameIndex j :=
  BitVec.eq_of_toNat_eq (by rw [frameIndex, BitVec.toNat_add, BitVec.toNat_ofNat, BitVec.toNat_ofNat]; omega)

/-- STATUS stands at one word index only (R63). -/
theorem eq_statusIndex {k : WordIndex} (h : regAt k = .status) : k = statusIndex := by
  revert k
  decide

/-- The recorded address of a word index is its byte address `4 * k` (R60). -/
theorem byteAddr_eq (k : WordIndex) : byteAddr k = BitVec.ofNat 32 (4 * k.toNat) := by
  apply BitVec.eq_of_toNat_eq
  simp only [byteAddr, BitVec.toNat_shiftLeft, BitVec.toNat_setWidth, BitVec.toNat_ofNat, Nat.shiftLeft_eq]
  omega

/-! ## Writes (R68), one rule per case -/

theorem raiseFault_eq_afterFault (c : FaultCause) (w : Word) (s : State) : raiseFault c w s = Spec.afterFault c w s := rfl

theorem hostWrite_of_faulted {s : State} (h : s.faulted = true) (k : WordIndex) (v : Word) : hostWrite k v s = s :=
  if_pos h

/-- The overrun case (R69). -/
theorem hostWrite_of_frozen {k : WordIndex} {s : State} (hf : s.faulted = false) (hp : s.pending ≠ none)
    (hk : Spec.Frozen k) (v : Word) :
    hostWrite k v s = Spec.afterFault .overrun (BitVec.ofNat 32 (4 * k.toNat)) s := by
  have hz := (frozenWhilePending_regAt_iff k).mpr hk
  have hb : busy s = true := Option.isSome_iff_ne_none.mpr hp
  rw [hostWrite, hf, hz, hb, byteAddr_eq]
  rfl

/-- A word that is neither `CMD`, `FLEN` nor a FRAME word takes no write, in any state. -/
theorem hostWrite_of_not_frozen {k : WordIndex} (hk : ¬ Spec.Frozen k) (v : Word) (s : State) : hostWrite k v s = s := by
  rw [← frozenWhilePending_regAt_iff] at hk
  have hw : writeReg k v s = s := by
    rcases writeReg_cases k v s with ⟨hr, -⟩ | ⟨hr, -⟩ | ⟨j, hr, -⟩ | ⟨-, h⟩
    · exact absurd (by rw [hr]; rfl) hk
    · exact absurd (by rw [hr]; rfl) hk
    · exact absurd (by rw [hr]; rfl) hk
    · exact h
  rcases hostWrite_cases k v s with ⟨-, h⟩ | ⟨-, hz, -⟩ | ⟨-, -, h⟩
  · exact h
  · exact absurd hz hk
  · rw [h, hw]

/-- An idle block performs the write. -/
theorem hostWrite_of_idle {s : State} (h : Spec.Idle s) (k : WordIndex) (v : Word) :
    hostWrite k v s = writeReg k v s := by
  obtain ⟨hf, hp⟩ := h
  have hb : busy s = false := by rw [busy, hp]; rfl
  rw [hostWrite, hf, hb, Bool.and_false]
  rfl

theorem writeReg_cmdIndex (v : Word) (s : State) : writeReg cmdIndex v s = accept v s := rfl

theorem writeReg_flenIndex (v : Word) (s : State) : writeReg flenIndex v s = setFlen (v.setWidth 16) s := rfl

theorem writeReg_frameIndex (j : Fin 8) (v : Word) (s : State) :
    writeReg (frameIndex j) v s = setFrameWord j v s := by
  rw [writeReg, regAt_frameIndex]

theorem accept_of_legal {w : Word} {i : Instr} (h : decode w = .legal i) (s : State) : accept w s = setPending w s := by
  rw [accept, h]

theorem accept_of_illegal {w : Word} {why : IllegalWord} (h : decode w = .illegal why) (s : State) :
    accept w s = raiseFault .illegal w s := by
  rw [accept, h]

/-! ## Reads (R63, R67) -/

theorem hostRead_of_unmapped {k : WordIndex} (h : regAt k = .unmapped) (s : State) : hostRead k s = 0#32 := by
  rw [hostRead, h]

/-- `BUSY` is bit 8 of STATUS (R63). -/
theorem statusWord_getLsbD_busy (s : State) : (statusWord s).getLsbD 8 = busy s := by
  simp only [statusWord, BitVec.getLsbD_append]
  simp

/-- STATUS with a command pending: bit 8 set, the other bits as they were (R26, R63). -/
theorem statusWord_pending {s : State} (h : s.pending = none) (w : Word) :
    statusWord { s with pending := some w } = statusWord s ||| 0x100#32 := by
  have hbits (hi : BitVec 23) (lo v : BitVec 4) :
      hi ++ 1#1 ++ lo ++ v = hi ++ 0#1 ++ lo ++ v ||| 0#23 ++ 1#1 ++ 0#4 ++ 0#4 := by
    rw [BitVec.or_append, BitVec.or_append, BitVec.or_append, BitVec.or_zero, BitVec.or_zero, BitVec.or_zero,
      BitVec.zero_or]
  rw [statusWord, statusWord, busy, busy, h]
  exact hbits _ _ _

/-- No word but STATUS shows whether a command is pending (R67). -/
theorem hostRead_pending {s : State} (h : s.pending = none) (k : WordIndex) (w : Word) :
    hostRead k { s with pending := some w } = hostRead k s ||| (if k = statusIndex then 0x100#32 else 0#32) := by
  by_cases hk : k = statusIndex
  · subst hk
    exact statusWord_pending h w
  · rw [if_neg hk, BitVec.or_zero, hostRead, hostRead]
    cases hr : regAt k with
    | status => exact absurd (eq_statusIndex hr) hk
    | _ => rfl

/-! ## Steps -/

theorem step_of_script {s : State} {e : Event} {rest : List Event} (h : s.script = e :: rest) :
    step s = takeTurn e (setScript rest s) := by
  rw [step, h]

theorem run_succ {s t : State} (h : step s = .next t) (n : Nat) : Spec.run (n + 1) s = Spec.run n t := by
  rw [Spec.run, h]

/-- The step of a read turn: the word of the map is noted, and nothing else happens (R67). -/
theorem step_read {s : State} {k : WordIndex} {rest : List Event} (h : s.script = .read k :: rest) :
    step s = .next { s with script := rest, reads := ⟨k, hostRead k s⟩ :: s.reads } :=
  step_of_script h

theorem step_write {s : State} {k : WordIndex} {v : Word} {rest : List Event} (h : s.script = .write k v :: rest) :
    step s = .next (hostWrite k v (setScript rest s)) :=
  step_of_script h

/-- A faulted block answers every turn but the reset input with itself, but for the turns to come and the notes (R70). -/
theorem takeTurn_of_faulted {s : State} {e : Event} (hf : s.faulted = true) (he : e ≠ .reset) :
    ∃ turns notes, takeTurn e s = .next { s with script := turns, reads := notes } := by
  cases e with
  | read k => exact ⟨s.script, _, rfl⟩
  | write k v => exact ⟨s.script, s.reads, congrArg Host.Outcome.next (hostWrite_of_faulted hf k v)⟩
  | wait =>
    simp only [takeTurn, waitTurn]
    split
    · exact ⟨_, _, rfl⟩
    · exact ⟨s.script, _, rfl⟩
  | engine => exact ⟨s.script, s.reads, if_pos hf⟩
  | reset => exact absurd rfl he

theorem quietStep_of_faulted {s : State} (hf : s.faulted = true) : quietStep s = .fault .blockFaulted := if_pos hf

/-- What a step of a bank that answers a next bank has done (R82). -/
theorem stepInstance_next {n : Nat} {bank after : List State} (h : stepInstance n bank = .next after) :
    bank[n]? = none ∧ after = bank ∨
      ∃ s t, bank[n]? = some s ∧ step s = .next t ∧ after = bank.set n t := by
  unfold stepInstance at h
  split at h
  case h_1 hn => exact .inl ⟨hn, (Host.Outcome.next.inj h).symm⟩
  case h_2 s hs =>
    split at h
    case h_1 t ht => exact .inr ⟨s, t, hs, ht, (Host.Outcome.next.inj h).symm⟩
    all_goals cases h

end Sys2Proof.Machine

/-! PROOF. The packing of the frame (R64): the bytes and bits of a FRAME word, and the frame as one big-endian number. -/

namespace Sys2Proof.Machine

/-- `FB(i)` by shift and remainder is the bit of the byte (R12). -/
theorem spec_frameBit_eq (m : Memory) (i : Nat) : Spec.frameBit m i = frameBit m i := by
  rw [Spec.frameBit, frameBit, ← BitVec.testBit_toNat, Nat.testBit_eq_decide_div_mod_eq, Nat.shiftRight_eq_div_pow,
    Bool.eq_iff_iff, beq_iff_eq, decide_eq_true_iff]

/-- A word is its four bytes, top lane first. -/
theorem append_lanes (v : Word) :
    v.extractLsb' 24 8 ++ v.extractLsb' 16 8 ++ v.extractLsb' 8 8 ++ v.extractLsb' 0 8 = v := by
  apply BitVec.eq_of_toNat_eq
  simp only [append_toNat, field_toNat]
  omega

/-! ## The four bytes of a written word -/

section
variable {m : Memory} (hm : m.wf) (j : Nat) (v : Word)
include hm

theorem read_writeWord_lane0 : (m.writeWord j v).read (4 * j) = v.extractLsb' 24 8 := by
  rw [read_writeWord hm, if_pos rfl]

theorem read_writeWord_lane1 : (m.writeWord j v).read (4 * j + 1) = v.extractLsb' 16 8 := by
  rw [read_writeWord hm, if_neg (by omega), if_pos rfl]

theorem read_writeWord_lane2 : (m.writeWord j v).read (4 * j + 2) = v.extractLsb' 8 8 := by
  rw [read_writeWord hm, if_neg (by omega), if_neg (by omega), if_pos rfl]

theorem read_writeWord_lane3 : (m.writeWord j v).read (4 * j + 3) = v.extractLsb' 0 8 := by
  rw [read_writeWord hm, if_neg (by omega), if_neg (by omega), if_neg (by omega), if_pos rfl]

theorem read_writeWord_outside {a : Nat} (ha : a < 4 * j ∨ 4 * j + 4 ≤ a) : (m.writeWord j v).read a = m.read a := by
  rw [read_writeWord hm, if_neg (by omega), if_neg (by omega), if_neg (by omega), if_neg (by omega)]

theorem readWord_writeWord : (m.writeWord j v).readWord j = v := by
  rw [Memory.readWord, read_writeWord_lane0 hm, read_writeWord_lane1 hm, read_writeWord_lane2 hm,
    read_writeWord_lane3 hm, append_lanes]

end

/-! ## The bits of a word and of the frame -/

/-- Bit `31 - b` of FRAME word `j` is frame bit `32 j + b`: byte `b / 8` of the word, counted from the top lane. -/
theorem readWord_getLsbD (m : Memory) (j : Nat) {b : Nat} (hb : b < 32) :
    (m.readWord j).getLsbD (31 - b) = frameBit m (32 * j + b) := by
  have hbyte : (32 * j + b) / 8 = 4 * j + b / 8 := by omega
  have hbit : 7 - (32 * j + b) % 8 = 7 - b % 8 := by omega
  rw [frameBit, hbyte, hbit, Memory.readWord]
  simp only [BitVec.getLsbD_append]
  obtain h | h | h | h : b / 8 = 0 ∨ b / 8 = 1 ∨ b / 8 = 2 ∨ b / 8 = 3 := by omega
  all_goals rw [h]
  · rw [if_neg (by omega), if_neg (by omega), if_neg (by omega)]
    congr 1; omega
  · rw [if_neg (by omega), if_neg (by omega), if_pos (by omega)]
    congr 1; omega
  · rw [if_neg (by omega), if_pos (by omega)]
    congr 1; omega
  · rw [if_pos (by omega)]
    congr 1; omega

/-- The first `n` FRAME words as one big-endian number; `frameNumber` takes all eight. -/
def leadingWords (m : Memory) (n : Nat) : Nat :=
  (List.range n).foldl (fun acc j => acc <<< 32 ||| (m.readWord j).toNat) 0

theorem frameNumber_eq_leadingWords (m : Memory) : frameNumber m = leadingWords m 8 := rfl

theorem leadingWords_succ (m : Memory) (n : Nat) :
    leadingWords m (n + 1) = leadingWords m n <<< 32 ||| (m.readWord n).toNat := by
  rw [leadingWords, List.range_succ, List.foldl_append, List.foldl_cons, List.foldl_nil, leadingWords]

/-- Frame bit 0 is the top bit of the number. -/
theorem leadingWords_testBit (m : Memory) {n i : Nat} (hi : i < 32 * n) :
    (leadingWords m n).testBit (32 * n - 1 - i) = frameBit m i := by
  induction n with
  | zero => omega
  | succ n ih =>
    rw [leadingWords_succ, Nat.testBit_or, Nat.testBit_shiftLeft, BitVec.testBit_toNat]
    by_cases h : i < 32 * n
    · have hpos : 32 * (n + 1) - 1 - i - 32 = 32 * n - 1 - i := by omega
      rw [hpos, ih h, decide_eq_true (by omega), BitVec.getLsbD_of_ge _ _ (by omega), Bool.true_and, Bool.or_false]
    · have hpos : 32 * (n + 1) - 1 - i = 31 - (i - 32 * n) := by omega
      have hbit : 32 * n + (i - 32 * n) = i := by omega
      rw [hpos, decide_eq_false (by omega), readWord_getLsbD m n (by omega), hbit, Bool.false_and, Bool.false_or]

theorem frameNumber_testBit (m : Memory) {i : Nat} (hi : i < 256) :
    (frameNumber m).testBit (255 - i) = frameBit m i :=
  leadingWords_testBit m (n := 8) hi

end Sys2Proof.Machine

/-! PROOF. The obligations of 20_memory.md. -/

namespace Sys2Proof.Proofs.HostPort

open Sys2Proof.Machine

/-- Settles O14: one rule of `hostWrite` per case of R68. -/
theorem writesByTheFirstMatchingCase : Obligations.WritesByTheFirstMatchingCase := by
  intro k v s
  refine ⟨fun hf => hostWrite_of_faulted hf k v, fun hf hp hk => hostWrite_of_frozen hf hp hk v, fun hs hk => ?_,
    fun hs hk => ?_, fun j hj hs hk => ?_, fun _ hk => hostWrite_of_not_frozen hk v s⟩
  · rw [hostWrite_of_idle hs, eq_cmdIndex hk, writeReg_cmdIndex]
  · rw [hostWrite_of_idle hs, eq_flenIndex hk, writeReg_flenIndex, BitVec.ofNat_toNat, setFlen]
  · rw [hostWrite_of_idle hs, eq_frameIndex (j := ⟨j, hj⟩) hk, writeReg_frameIndex, setFrameWord]

/-- Settles O15: the lanes of a written word, then the bits of a word and of the frame number. -/
theorem frameWordsAreBigEndian : Obligations.FrameWordsAreBigEndian := by
  refine ⟨fun m j v hm hj => ⟨?_, ?_, ?_, ?_, fun a ha => read_writeWord_outside hm j v ha, readWord_writeWord hm j v,
    fun b hb => ?_, writeWord_wf hm hj⟩, fun _ _ => rfl, fun m i hi => ?_⟩
  · rw [read_writeWord_lane0 hm, field_toNat]
    omega
  · rw [read_writeWord_lane1 hm, field_toNat]
  · rw [read_writeWord_lane2 hm, field_toNat]
  · rw [read_writeWord_lane3 hm, field_toNat, Nat.pow_zero, Nat.div_one]
  · rw [spec_frameBit_eq, ← readWord_getLsbD _ j hb, readWord_writeWord hm]
  · rw [spec_frameBit_eq, frameNumber_testBit m hi]

/-- Settles O17: what a turn of a faulted block answers, then the write, read and reset turns. -/
theorem faultedBlockIgnoresWrites : Obligations.FaultedBlockIgnoresWrites := by
  intro s hf
  refine ⟨fun t ht hreset => ?_, fun k v rest h => ?_, fun k rest h => step_read h,
    fun rest h => ⟨_, step_of_script h, rfl⟩⟩
  · rcases step_cases s with ⟨-, h⟩ | ⟨e, rest, hs, h⟩
    · rw [h, quietStep_of_faulted hf] at ht
      cases ht
    · have he : e ≠ .reset := fun he => hreset rest (he ▸ hs)
      obtain ⟨turns, notes, hturn⟩ := takeTurn_of_faulted (s := setScript rest s) hf he
      rw [h, hturn] at ht
      cases ht
      rfl
  · rw [step_write h, hostWrite_of_faulted (s := setScript rest s) hf]
    rfl

/-- Settles O56: a step of a bank is a replacement of one entry by its own next state. -/
theorem instancesAreIndependent : Obligations.InstancesAreIndependent := by
  intro n bank after h
  rcases stepInstance_next h with ⟨hn, rfl⟩ | ⟨s, t, hs, ht, rfl⟩
  · refine ⟨rfl, fun _ _ => rfl, fun s hs => ?_⟩
    rw [hn] at hs
    cases hs
  · refine ⟨List.length_set, fun k hk => List.getElem?_set_ne hk.symm, fun s' hs' => ?_⟩
    obtain rfl : s = s' := Option.some.inj (hs.symm.trans hs')
    have hlt : n < bank.length := (List.getElem?_eq_some_iff.mp hs).1
    exact ⟨t, ht, List.getElem?_set_self hlt⟩

/-- Settles O11: a gap of the map names no register, and no frozen one. -/
theorem unmappedWordsReadZeroAndIgnoreWrites : Obligations.UnmappedWordsReadZeroAndIgnoreWrites := by
  intro k v s hk
  have hfrozen : ¬ Spec.Frozen k := by
    unfold Spec.Frozen
    omega
  exact ⟨hostRead_of_unmapped (regAt_eq_unmapped hk) s, hostWrite_of_not_frozen hfrozen v s⟩

/-- Settles O12: no read-only register is one of the frozen ones, and no other register takes a write. -/
theorem readOnlyRegistersIgnoreWrites : Obligations.ReadOnlyRegistersIgnoreWrites := by
  intro k v s hk
  have hfrozen : ¬ Spec.Frozen k := by
    simp only [List.mem_cons, List.not_mem_nil, or_false] at hk
    unfold Spec.Frozen
    omega
  exact hostWrite_of_not_frozen hfrozen v s

/-- Settles O13: the first read changes nothing that the second one reads. -/
theorem readsHaveNoSideEffect : Obligations.ReadsHaveNoSideEffect := by
  refine ⟨fun k s rest h => step_read h, fun k s rest h => ⟨hostRead k s, ?_⟩, fun k w s h => hostRead_pending h k w⟩
  rw [run_succ (step_read h), run_succ (step_read rfl)]
  rfl

/-- Settles O16: the overrun case of a host write, in the step that takes it. -/
theorem writesWhilePendingOverrun : Obligations.WritesWhilePendingOverrun := by
  intro k v w s rest hs hf hp hk
  have hpending : s.pending ≠ none := by simp [hp]
  rw [step_write hs, hostWrite_of_frozen (s := setScript rest s) hf hpending hk]
  rfl

/-- Settles O18: a write to `CMD` of an idle block is `accept`. -/
theorem acceptanceOfACommand : Obligations.AcceptanceOfACommand := by
  intro w s hs
  have hwrite : hostWrite cmdIndex w s = accept w s := hostWrite_of_idle hs cmdIndex w
  refine ⟨fun i hi => ?_, fun why hwhy => ?_⟩
  · have haccept : hostWrite cmdIndex w s = setPending w s := by rw [hwrite, accept_of_legal hi]
    rw [haccept]
    exact ⟨rfl, statusWord_getLsbD_busy _⟩
  · rw [hwrite, accept_of_illegal hwhy, raiseFault_eq_afterFault]

end Sys2Proof.Proofs.HostPort

/-! PROOF. The decode rule (R99) on numbers, by format and then by opcode, and the rows of the opcode map (R96). -/

namespace Sys2Proof

/-! ## The three formats (R92 to R94) -/

/-- A field of low bits is zero exactly when the word is a multiple of its power of two. -/
theorem lowBits_eq_zero_iff (w : Word) (z : Nat) : w.extractLsb' 0 z = 0#z ↔ w.toNat % 2 ^ z = 0 := by
  rw [← BitVec.toNat_inj, field_toNat, BitVec.toNat_ofNat, Nat.pow_zero, Nat.div_one, Nat.zero_mod]

/-- The two ends of format N (R92). -/
theorem decodeN_cases (w : Word) (i : Instr) :
    w.toNat % 2 ^ 28 = 0 ∧ decodeN w i = .legal i ∨ w.toNat % 2 ^ 28 ≠ 0 ∧ ∃ why, decodeN w i = .illegal why := by
  rw [decodeN, Ne, ← lowBits_eq_zero_iff]
  split
  case isTrue hz => exact .inl ⟨hz, rfl⟩
  case isFalse hz => exact .inr ⟨hz, _, rfl⟩

/-- The two ends of format X (R93). -/
theorem decodeX_cases (w : Word) :
    (w.toNat % 2 ^ 13 = 0 ∧ w.toNat / 2 ^ 13 % 2 ^ 7 ≤ 64) ∧ decodeX w = .legal (.ext (offField w) (cntField w)) ∨
      (w.toNat % 2 ^ 13 ≠ 0 ∨ 64 < w.toNat / 2 ^ 13 % 2 ^ 7) ∧ ∃ why, decodeX w = .illegal why := by
  rw [decodeX, Ne, ← lowBits_eq_zero_iff, ← cntField_toNat]
  split
  case isTrue hz =>
    split
    case isTrue hcnt => exact .inl ⟨⟨hz, hcnt⟩, rfl⟩
    case isFalse hcnt => exact .inr ⟨.inr (Nat.lt_of_not_le hcnt), _, rfl⟩
  case isFalse hz => exact .inr ⟨.inl hz, _, rfl⟩

/-- The two ends of format R (R94). -/
theorem decodeR_cases (w : Word) (i : BitVec 8 → BitVec 9 → Instr) :
    w.toNat % 2 ^ 11 = 0 ∧ decodeR w i = .legal (i (startField w) (nbitsField w)) ∨
      w.toNat % 2 ^ 11 ≠ 0 ∧ ∃ why, decodeR w i = .illegal why := by
  rw [decodeR, Ne, ← lowBits_eq_zero_iff]
  split
  case isTrue hz => exact .inl ⟨hz, rfl⟩
  case isFalse hz => exact .inr ⟨hz, _, rfl⟩

/-! ## The decode rule (R99) -/

/-- The word is a legal encoding of the command: its opcode, its must-be-zero field, and the operands it carries. -/
inductive LegalWord (w : Word) : Instr → Prop where
  | nop (hop : w.toNat / 2 ^ 28 = 0) (hz : w.toNat % 2 ^ 28 = 0) : LegalWord w .nop
  | ext (hop : w.toNat / 2 ^ 28 = 1) (hz : w.toNat % 2 ^ 13 = 0) (hcnt : w.toNat / 2 ^ 13 % 2 ^ 7 ≤ 64) :
      LegalWord w (.ext (offField w) (cntField w))
  | crc (hop : w.toNat / 2 ^ 28 = 2) (hz : w.toNat % 2 ^ 11 = 0) : LegalWord w (.crc (startField w) (nbitsField w))
  | chk (hop : w.toNat / 2 ^ 28 = 3) (hz : w.toNat % 2 ^ 11 = 0) : LegalWord w (.chk (startField w) (nbitsField w))
  | fval (hop : w.toNat / 2 ^ 28 = 4) (hz : w.toNat % 2 ^ 28 = 0) : LegalWord w .fval
  | parse (hop : w.toNat / 2 ^ 28 = 5) (hz : w.toNat % 2 ^ 28 = 0) : LegalWord w .parse

/-- The tests of `decode(w)` that answer ILLEGAL (R99). -/
def FailsDecodeRule (w : Word) : Prop :=
  6 ≤ w.toNat / 2 ^ 28 ∨
    (w.toNat / 2 ^ 28 = 0 ∨ w.toNat / 2 ^ 28 = 4 ∨ w.toNat / 2 ^ 28 = 5) ∧ w.toNat % 2 ^ 28 ≠ 0 ∨
    w.toNat / 2 ^ 28 = 1 ∧ (w.toNat % 2 ^ 13 ≠ 0 ∨ 64 < w.toNat / 2 ^ 13 % 2 ^ 7) ∨
    (w.toNat / 2 ^ 28 = 2 ∨ w.toNat / 2 ^ 28 = 3) ∧ w.toNat % 2 ^ 11 ≠ 0

/-- Decoding is total: a word is the encoding of a command, or fails a test of R99. -/
theorem decode_cases (w : Word) :
    (∃ i, decode w = .legal i ∧ LegalWord w i) ∨ (∃ why, decode w = .illegal why) ∧ FailsDecodeRule w := by
  unfold decode FailsDecodeRule
  rw [opField_toNat]
  split
  case h_1 hop =>
    exact (decodeN_cases w .nop).imp (fun ⟨hz, hd⟩ => ⟨_, hd, .nop hop hz⟩) fun ⟨hbad, hd⟩ => ⟨hd, by omega⟩
  case h_2 hop =>
    exact (decodeX_cases w).imp (fun ⟨⟨hz, hcnt⟩, hd⟩ => ⟨_, hd, .ext hop hz hcnt⟩) fun ⟨hbad, hd⟩ => ⟨hd, by omega⟩
  case h_3 hop =>
    exact (decodeR_cases w .crc).imp (fun ⟨hz, hd⟩ => ⟨_, hd, .crc hop hz⟩) fun ⟨hbad, hd⟩ => ⟨hd, by omega⟩
  case h_4 hop =>
    exact (decodeR_cases w .chk).imp (fun ⟨hz, hd⟩ => ⟨_, hd, .chk hop hz⟩) fun ⟨hbad, hd⟩ => ⟨hd, by omega⟩
  case h_5 hop =>
    exact (decodeN_cases w .fval).imp (fun ⟨hz, hd⟩ => ⟨_, hd, .fval hop hz⟩) fun ⟨hbad, hd⟩ => ⟨hd, by omega⟩
  case h_6 hop =>
    exact (decodeN_cases w .parse).imp (fun ⟨hz, hd⟩ => ⟨_, hd, .parse hop hz⟩) fun ⟨hbad, hd⟩ => ⟨hd, by omega⟩
  case h_7 h0 h1 h2 h3 h4 h5 =>
    rw [imp_false] at h0 h1 h2 h3 h4 h5
    exact .inr ⟨⟨_, rfl⟩, by omega⟩

/-- What a word that decodes to a command is made of. -/
theorem legalWord_of_decode {w : Word} {i : Instr} (h : decode w = .legal i) : LegalWord w i := by
  rcases decode_cases w with ⟨j, hd, hw⟩ | ⟨⟨why, hd⟩, -⟩
  · obtain rfl : i = j := Decoded.legal.inj (h.symm.trans hd)
    exact hw
  · cases h.symm.trans hd

theorem LegalWord.opField_eq {w : Word} {i : Instr} (h : LegalWord w i) : opField w = opcode i := by
  apply BitVec.eq_of_toNat_eq
  rw [opField_toNat]
  cases h <;> assumption

theorem LegalWord.not_failsDecodeRule {w : Word} {i : Instr} (h : LegalWord w i) : ¬ FailsDecodeRule w := by
  unfold FailsDecodeRule
  cases h <;> omega

/-- The illegal words are those that fail a test of R99. -/
theorem decode_illegal_iff (w : Word) : (∃ why, decode w = .illegal why) ↔ FailsDecodeRule w := by
  rcases decode_cases w with ⟨i, hd, hw⟩ | ⟨hd, hfails⟩
  · refine ⟨fun ⟨why, h⟩ => ?_, fun h => absurd h hw.not_failsDecodeRule⟩
    cases h.symm.trans hd
  · exact ⟨fun _ => hfails, fun _ => hd⟩

/-! ## The opcode map (R96) -/

/-- The mask of a row whose must-be-zero field is the low `z` bits: the opcode and that field. -/
def rowMask (z : Nat) : Word := 0xF#4 ++ BitVec.ofNat 28 (2 ^ z - 1)

/-- The rows of R96, each by its must-be-zero field and its opcode. -/
theorem opcodeRows_eq : opcodeRows =
    [⟨"NOP", rowMask 28, formatN 0#4⟩, ⟨"EXT", rowMask 13, formatN 1#4⟩, ⟨"CRC", rowMask 11, formatN 2#4⟩,
      ⟨"CHK", rowMask 11, formatN 3#4⟩, ⟨"FVAL", rowMask 28, formatN 4#4⟩, ⟨"PARSE", rowMask 28, formatN 5#4⟩] :=
  rfl

/-- A mask keeps the opcode and the must-be-zero field, and drops the operands. -/
theorem and_rowMask_toNat (w : Word) {z : Nat} (hz : z ≤ 28) :
    (w &&& rowMask z).toNat = w.toNat / 2 ^ 28 * 2 ^ 28 + w.toNat % 2 ^ z := by
  have hsplit : w = opField w ++ w.extractLsb' 0 28 := by
    apply BitVec.eq_of_toNat_eq
    rw [append_toNat, opField_toNat, field_toNat]
    omega
  have hlow : (w.extractLsb' 0 28 &&& BitVec.ofNat 28 (2 ^ z - 1)).toNat = w.toNat % 2 ^ z := by
    have hfits : 2 ^ z - 1 < 2 ^ 28 := Nat.sub_one_lt_of_le (Nat.two_pow_pos z) (Nat.pow_le_pow_right (by decide) hz)
    rw [BitVec.toNat_and, field_toNat, BitVec.toNat_ofNat, Nat.mod_eq_of_lt hfits, Nat.and_two_pow_sub_one_eq_mod,
      Nat.pow_zero, Nat.div_one, Nat.mod_mod_of_dvd _ (Nat.pow_dvd_pow 2 hz)]
  have hall : opField w &&& 0xF#4 = opField w := BitVec.and_allOnes
  have hand : w &&& rowMask z = (opField w &&& 0xF#4) ++ (w.extractLsb' 0 28 &&& BitVec.ofNat 28 (2 ^ z - 1)) := by
    rw [← BitVec.and_append, ← hsplit, rowMask]
  rw [hand, append_toNat, hall, hlow, opField_toNat]

/-- A word falls under a row exactly when it has the row's opcode and its must-be-zero field is zero. -/
theorem covers_rowMask (name : String) {z : Nat} (hz : z ≤ 28) (op : BitVec 4) (w : Word) :
    OpcodeRow.covers ⟨name, rowMask z, formatN op⟩ w =
      decide (opField w = op ∧ w.toNat % 2 ^ z = 0) := by
  have hlow : w.toNat % 2 ^ z < 2 ^ 28 :=
    Nat.lt_of_lt_of_le (Nat.mod_lt _ (Nat.two_pow_pos z)) (Nat.pow_le_pow_right (by decide) hz)
  rw [OpcodeRow.covers, Bool.eq_iff_iff, beq_iff_eq, decide_eq_true_iff, ← BitVec.toNat_inj, ← BitVec.toNat_inj,
    and_rowMask_toNat w hz, formatN_toNat, opField_toNat]
  omega

/-- The one row of a legal word: the opcode rules out the other rows. -/
theorem LegalWord.rows_eq {w : Word} {i : Instr} (h : LegalWord w i) :
    (opcodeRows.filter fun r => r.covers w).map (fun r => r.mnemonic) = [rowName i] := by
  have hop := h.opField_eq
  rw [opcodeRows_eq]
  cases h with
  | nop _ hz | ext _ hz _ | crc _ hz | chk _ hz | fval _ hz | parse _ hz =>
    simp [covers_rowMask, hop, opcode, hz, rowName, -Nat.reducePow]

end Sys2Proof

/-! PROOF. The obligations of 30_encoding.md. -/

namespace Sys2Proof.Proofs.Encoding

open Sys2Proof.Machine

/-- Settles O3: the decode rule on numbers, the row of a legal word, and `accept` of an illegal one. -/
theorem illegalWordsAreThoseOfTheDecodeRule : Obligations.IllegalWordsAreThoseOfTheDecodeRule := by
  refine ⟨decode_illegal_iff, fun w i h => (legalWord_of_decode h).rows_eq, fun w why s h hs => ?_⟩
  rw [hostWrite_of_idle hs, writeReg_cmdIndex, accept_of_illegal h, raiseFault_eq_afterFault]

/-- Settles O4: a legal word carries its operands in its fields. -/
theorem operandsAreUnsignedFields : Obligations.OperandsAreUnsignedFields := by
  refine ⟨fun w off cnt h => ?_, fun w start nbits h => ?_⟩
  · cases legalWord_of_decode h
    exact ⟨offField_toNat w, cntField_toNat w⟩
  · rcases h with h | h
    all_goals
      cases legalWord_of_decode h
      exact ⟨startField_toNat w, nbitsField_toNat w⟩

end Sys2Proof.Proofs.Encoding

/-! PROOF. The fields of the frame bit by bit (R121), their barrel-shifter forms (R122), and the range check in front of
a command's result writes (R123). -/

namespace Sys2Proof.Machine

/-! ## The bits of a field (R121, R122) -/

theorem frameBits_succ_testBit_zero (m : Memory) (off cnt : Nat) :
    (frameBits m off (cnt + 1)).testBit 0 = frameBit m (off + cnt) := by
  rw [frameBits_succ, Nat.testBit_zero, Nat.mul_add_mod]
  cases frameBit m (off + cnt) <;> rfl

theorem frameBits_succ_testBit_succ (m : Memory) (off cnt j : Nat) :
    (frameBits m off (cnt + 1)).testBit (j + 1) = (frameBits m off cnt).testBit j := by
  have hlow : (frameBit m (off + cnt)).toNat < 2 := Bool.toNat_lt _
  have hhalf : (2 * frameBits m off cnt + (frameBit m (off + cnt)).toNat) / 2 = frameBits m off cnt := by omega
  rw [frameBits_succ, Nat.testBit_succ, hhalf]

/-- The last frame bit of a field is its bit 0. -/
theorem frameBits_testBit (m : Memory) (off cnt j : Nat) :
    (frameBits m off cnt).testBit j = (decide (j < cnt) && frameBit m (off + cnt - 1 - j)) := by
  induction cnt generalizing j with
  | zero => rw [frameBits_zero, Nat.zero_testBit, decide_eq_false (Nat.not_lt_zero j), Bool.false_and]
  | succ n ih =>
    cases j with
    | zero =>
      have hpos : off + (n + 1) - 1 - 0 = off + n := by omega
      rw [frameBits_succ_testBit_zero, hpos, decide_eq_true (Nat.succ_pos n), Bool.true_and]
    | succ j =>
      have hpos : off + (n + 1) - 1 - (j + 1) = off + n - 1 - j := by omega
      rw [frameBits_succ_testBit_succ, ih, hpos, decide_eq_decide.mpr Nat.succ_lt_succ_iff]

theorem frameBits_congr {m m' : Memory} {off cnt : Nat}
    (h : ∀ i, off ≤ i → i < off + cnt → frameBit m i = frameBit m' i) :
    frameBits m off cnt = frameBits m' off cnt := by
  apply Nat.eq_of_testBit_eq
  intro j
  rw [frameBits_testBit, frameBits_testBit]
  by_cases hj : j < cnt
  · rw [h _ (by omega) (by omega)]
  · rw [decide_eq_false hj, Bool.false_and, Bool.false_and]

section
variable (m : Memory) {off cnt : Nat} (h : off + cnt ≤ 256)
include h

/-- Bit `j` of a field stands at bit `256 - off - cnt + j` of the frame number. -/
theorem frameBits_testBit_eq_frameNumber (j : Nat) :
    (frameBits m off cnt).testBit j = (decide (j < cnt) && (frameNumber m).testBit (256 - off - cnt + j)) := by
  rw [frameBits_testBit]
  by_cases hj : j < cnt
  · have hpos : 256 - off - cnt + j = 255 - (off + cnt - 1 - j) := by omega
    rw [hpos, frameNumber_testBit m (by omega)]
  · rw [decide_eq_false hj, Bool.false_and, Bool.false_and]

theorem barrelBits_eq_frameBits : barrelBits m off cnt = frameBits m off cnt := by
  apply Nat.eq_of_testBit_eq
  intro j
  rw [frameBits_testBit_eq_frameNumber m h, barrelBits, Nat.testBit_and, Nat.testBit_shiftRight, Nat.one_shiftLeft,
    Nat.testBit_two_pow_sub_one, Bool.and_comm]

theorem topBits_shiftLeft_eq_frameBits :
    ((frameNumber m <<< off) % 2 ^ 256) >>> (256 - cnt) = frameBits m off cnt := by
  apply Nat.eq_of_testBit_eq
  intro j
  have hkept : 256 - cnt + j < 256 ↔ j < cnt := by omega
  have hpos : 256 - cnt + j - off = 256 - off - cnt + j := by omega
  rw [frameBits_testBit_eq_frameNumber m h, Nat.testBit_shiftRight, Nat.testBit_mod_two_pow, Nat.testBit_shiftLeft,
    decide_eq_true (by omega : 256 - cnt + j ≥ off), Bool.true_and, hpos, decide_eq_decide.mpr hkept]

end

/-! ## The range check (R123) -/

theorem rangeChecked_of_lt {needed : Nat} {s : State} (h : bufBits s < needed) (i : Instr) (t : State) :
    rangeChecked i needed s t = .next (Spec.afterFault .bounds (encode i) s) := if_pos h

theorem rangeChecked_of_le {needed : Nat} {s : State} (h : needed ≤ bufBits s) (i : Instr) (t : State) :
    rangeChecked i needed s t = .next (complete i t) := if_neg (Nat.not_lt.mpr h)

/-- A command is its range check in front of result writes alone; NOP, FVAL and PARSE need no frame bits, so theirs
cannot fail. -/
theorem exec_eq_rangeChecked (i : Instr) (s : State) :
    ∃ v r c d h, exec i s = rangeChecked i (Spec.needed i) s
      { s with verdict := v, result := r, crcCalc := c, crcRecv := d, hdr := h } := by
  have hnone : 0 ≤ bufBits s := Nat.zero_le _
  cases i with
  | nop => exact ⟨s.verdict, s.result, s.crcCalc, s.crcRecv, s.hdr, (rangeChecked_of_le hnone _ _).symm⟩
  | ext off cnt => exact ⟨.ok, _, s.crcCalc, s.crcRecv, s.hdr, rfl⟩
  | crc start nbits => exact ⟨.ok, s.result, _, s.crcRecv, s.hdr, rfl⟩
  | chk start nbits => exact ⟨_, s.result, _, _, s.hdr, rfl⟩
  | fval => exact ⟨_, s.result, s.crcCalc, s.crcRecv, _, (rangeChecked_of_le hnone _ _).symm⟩
  | parse => exact ⟨_, s.result, s.crcCalc, s.crcRecv, _, (rangeChecked_of_le hnone _ _).symm⟩

/-- Out of bounds, whatever the command, is the fault entry of BOUNDS with its word. -/
theorem exec_of_bufBits_lt {i : Instr} {s : State} (h : bufBits s < Spec.needed i) :
    exec i s = .next (Spec.afterFault .bounds (encode i) s) := by
  obtain ⟨_, _, _, _, _, hexec⟩ := exec_eq_rangeChecked i s
  rw [hexec, rangeChecked_of_lt h]

/-- In bounds, EXT writes the field, the verdict OK, and its completion (R124). -/
theorem exec_ext_of_le {off : BitVec 8} {cnt : BitVec 7} {s : State} (h : off.toNat + cnt.toNat ≤ bufBits s) :
    exec (.ext off cnt) s = .next { s with
      result := BitVec.ofNat 64 (frameBits s.frame off.toNat cnt.toNat), verdict := .ok, lastop := 0x1#4,
      pending := none } :=
  rangeChecked_of_le h _ _

end Sys2Proof.Machine

/-! PROOF. The word of EXT (R93, R124). -/

namespace Sys2Proof

theorem decode_of_opcode_ext {w : Word} (hop : w.toNat / 2 ^ 28 = 1) : decode w = decodeX w := by
  simp only [decode, opField_toNat, hop]

theorem decode_ext {w : Word} {off : BitVec 8} {cnt : BitVec 7} (hcnt : cnt.toNat ≤ 64)
    (hw : w.toNat = 0x1 * 2 ^ 28 + off.toNat * 2 ^ 20 + cnt.toNat * 2 ^ 13) : decode w = .legal (.ext off cnt) := by
  have hoff : offField w = off := BitVec.eq_of_toNat_eq (by rw [offField_toNat]; omega)
  have hcntField : cntField w = cnt := BitVec.eq_of_toNat_eq (by rw [cntField_toNat]; omega)
  rw [decode_of_opcode_ext (by omega)]
  rcases decodeX_cases w with ⟨-, hd⟩ | ⟨hbad, -⟩
  · rw [hd, hoff, hcntField]
  · omega

end Sys2Proof

/-! PROOF. The obligations of 40_bitfield.md. -/

namespace Sys2Proof.Proofs.BitField

open Sys2Proof.Machine

/-- Settles O24: the bits of a field, and fields compared bit by bit. -/
theorem fieldBitsAreFrameBits : Obligations.FieldBitsAreFrameBits := by
  refine ⟨fun m off cnt j => ?_, frameBits_zero, fun m m' off cnt h => ?_⟩
  · rw [frameBits_testBit, spec_frameBit_eq]
  · simp only [spec_frameBit_eq] at h
    exact frameBits_congr h

/-- Settles O25: both forms have the bits of the field. -/
theorem barrelShifterGivesTheField : Obligations.BarrelShifterGivesTheField :=
  fun m _ _ h => ⟨barrelBits_eq_frameBits m h, topBits_shiftLeft_eq_frameBits m h⟩

/-- Settles O26: the two ends of the range check every command is behind. -/
theorem boundsCheckOfEveryCommand : Obligations.BoundsCheckOfEveryCommand := by
  intro i s
  refine ⟨exec_of_bufBits_lt, fun h => ?_⟩
  obtain ⟨_, _, _, _, _, hexec⟩ := exec_eq_rangeChecked i s
  exact ⟨_, hexec.trans (rangeChecked_of_le h _ _), rfl, rfl, rfl, rfl, rfl⟩

/-- Settles O23: the two ends of EXT, the bits of its field, and its word. -/
theorem extReadsTheField : Obligations.ExtReadsTheField := by
  refine ⟨fun off cnt s _ h => ⟨_, exec_ext_of_le h, fun j hj => ?_⟩, fun off cnt s h => exec_of_bufBits_lt h,
    fun w off cnt hcnt hw => decode_ext hcnt hw, fun w hop hbad =>
      (decode_illegal_iff w).mpr (.inr (.inr (.inl ⟨hop, hbad⟩)))⟩
  rw [BitVec.getLsbD_ofNat, decide_eq_true hj, Bool.true_and, frameBits_testBit, spec_frameBit_eq]

end Sys2Proof.Proofs.BitField

/-! PROOF. The division step and the CRC register as numbers (R142, R143), the source's byte-wise procedure as the same
steps (R144, R145), and the commands CRC and CHK in bounds (R146, R147). -/

namespace Sys2Proof.Machine

/-! ## The division step (R142) -/

/-- The bit that comes out at bit 24 is bit 23 of the register, and it selects the generator. -/
theorem crcShift_eq (poly R : BitVec 25) :
    crcShift poly R = R <<< 1 ^^^ (if R.getLsbD 23 then poly else 0#25) := by
  have htop : (R <<< 1).getLsbD 24 = R.getLsbD 23 := by rw [BitVec.getLsbD_shiftLeft]; rfl
  simp only [crcShift, htop]
  split
  case isTrue => rfl
  case isFalse => rw [BitVec.xor_zero]

/-- Division without input is linear, whatever the generator. -/
theorem crcShift_xor (poly A B : BitVec 25) : crcShift poly (A ^^^ B) = crcShift poly A ^^^ crcShift poly B := by
  have hsel : (if (A ^^^ B).getLsbD 23 then poly else 0#25) =
      (if A.getLsbD 23 then poly else 0#25) ^^^ (if B.getLsbD 23 then poly else 0#25) := by
    rw [BitVec.getLsbD_xor]
    cases A.getLsbD 23 <;> cases B.getLsbD 23 <;> simp
  rw [crcShift_eq, crcShift_eq, crcShift_eq, BitVec.shiftLeft_xor_distrib, hsel]
  ac_rfl

/-- A generator with bit 24 set clears the bit that selects it. -/
theorem crcShift_lt {poly : BitVec 25} (h : poly.getLsbD 24 = true) (R : BitVec 25) :
    (crcShift poly R).toNat < 2 ^ 24 := by
  have htop : (crcShift poly R).getLsbD 24 = false := by
    rw [crcShift_eq, BitVec.getLsbD_xor, BitVec.getLsbD_shiftLeft]
    cases R.getLsbD 23 <;> simp [h]
  exact BitVec.toNat_lt_of_msb_false htop

theorem inputBit_toNat (b : Bool) : ((BitVec.ofBool b).setWidth 25 <<< 23).toNat = b.toNat <<< 23 := by
  cases b <;> rfl

/-- The step is the rule's pseudocode on naturals, for every generator and register. -/
theorem crcStep_toNat (poly R : BitVec 25) (b : Bool) :
    (crcStep poly R b).toNat = Spec.crcStep poly.toNat R.toNat b.toNat := by
  have hT : ((R ^^^ (BitVec.ofBool b).setWidth 25 <<< 23) <<< 1).toNat =
      (R.toNat ^^^ b.toNat <<< 23) <<< 1 % 2 ^ 25 := by
    rw [BitVec.toNat_shiftLeft, BitVec.toNat_xor, inputBit_toNat]
  simp only [crcStep, crcShift, Spec.crcStep, ← BitVec.testBit_toNat, apply_ite BitVec.toNat,
    BitVec.toNat_xor _ poly, hT]

/-- The register and the input bit lie below bit 24, so the shift "never discards a 1" (R142). -/
theorem stepInput_shiftLeft_lt {R : Nat} (h : R < 2 ^ 24) (b : Bool) : (R ^^^ (b.toNat <<< 23)) <<< 1 < 2 ^ 25 := by
  have hin : b.toNat <<< 23 < 2 ^ 24 := by cases b <;> decide
  have hlow : R ^^^ (b.toNat <<< 23) < 2 ^ 24 := Nat.xor_lt_two_pow h hin
  rw [Nat.shiftLeft_eq]
  omega

/-! ## The CRC of a range (R143) -/

/-- The register as a number. -/
theorem crcRegister_toNat (poly : BitVec 25) (m : Memory) (start nbits : Nat) :
    (crcRegister poly m start nbits).toNat =
      (List.range nbits).foldl (fun R i => Spec.crcStep poly.toNat R (Spec.frameBit m (start + i)).toNat) 0 := by
  induction nbits with
  | zero => rfl
  | succ n ih =>
    rw [crcRegister_succ, crcStep_toNat, ih, List.range_succ, List.foldl_append, List.foldl_cons, List.foldl_nil,
      spec_frameBit_eq]

theorem crcRange_toNat (poly : BitVec 25) (m : Memory) (start nbits : Nat) :
    (crcRange poly m start nbits).toNat = Spec.crcRange poly.toNat m start nbits := by
  rw [crcRange, BitVec.toNat_setWidth, crcRegister_toNat, Spec.crcRange]

/-! ## One byte of the byte-wise procedure (R144) -/

/-- A byte one bit up in the register is its top bit, where an input bit goes, and the rest. -/
theorem byte_shiftLeft_one (b : Byte) :
    (b.setWidth 25 <<< 16) <<< 1 =
      (BitVec.ofBool (b.getMsbD 0)).setWidth 25 <<< 23 <<< 1 ^^^ (b <<< 1).setWidth 25 <<< 16 := by
  apply BitVec.eq_of_getLsbD_eq
  intro i hi
  simp only [← BitVec.shiftLeft_add, BitVec.getLsbD_xor, BitVec.getLsbD_shiftLeft, BitVec.getLsbD_setWidth,
    BitVec.getLsbD_ofBool, BitVec.getMsbD_eq_getLsbD]
  by_cases htop : i = 24
  · subst htop
    simp
  · have hinput : i < 23 + 1 := by omega
    have hpos : i - 16 - 1 = i - (16 + 1) := by omega
    rw [hpos, decide_eq_true hinput]
    grind

/-- A byte at register bits 23..16 selects the generator as its top bit does as an input bit; the rest moves up. -/
theorem crcShift_byte (poly : BitVec 25) (b : Byte) :
    crcShift poly (b.setWidth 25 <<< 16) =
      crcShift poly ((BitVec.ofBool (b.getMsbD 0)).setWidth 25 <<< 23) ^^^ (b <<< 1).setWidth 25 <<< 16 := by
  have hbyte : (b.setWidth 25 <<< 16).getLsbD 23 = b.getMsbD 0 := by
    rw [BitVec.getLsbD_shiftLeft, BitVec.getLsbD_setWidth]; rfl
  have hinput : ((BitVec.ofBool (b.getMsbD 0)).setWidth 25 <<< 23).getLsbD 23 = b.getMsbD 0 := by
    cases b.getMsbD 0 <;> rfl
  rw [crcShift_eq, crcShift_eq, hbyte, hinput, byte_shiftLeft_one, BitVec.xor_assoc, BitVec.xor_assoc]
  exact congrArg _ (BitVec.xor_comm _ _)

/-- One step more of a byte is the bit-serial step of its top bit, then the byte one bit up. -/
theorem crcByte_succ (poly R : BitVec 25) (b : Byte) (n : Nat) :
    crcByte poly R b (n + 1) = crcByte poly (crcStep poly R (b.getMsbD 0)) (b <<< 1) n := by
  rw [crcByte, crcShifts, crcShift_xor, crcShift_byte, ← BitVec.xor_assoc, ← crcShift_xor, ← crcStep, ← crcByte]

/-- A byte whose top `n` bits are the next frame bits, and whose others are zero, is `n` bit-serial steps. -/
theorem crcByte_crcRegister (poly : BitVec 25) (m : Memory) (start n : Nat) {cnt : Nat} {b : Byte}
    (htop : ∀ i, i < n → b.getMsbD i = frameBit m (start + cnt + i)) (hrest : b <<< n = 0#8) :
    crcByte poly (crcRegister poly m start cnt) b n = crcRegister poly m start (cnt + n) := by
  induction n generalizing cnt b with
  | zero =>
    rw [BitVec.shiftLeft_zero] at hrest
    subst hrest
    exact BitVec.xor_zero
  | succ n ih =>
    rw [crcByte_succ, htop 0 (Nat.succ_pos n), Nat.add_zero, ← crcRegister_succ, ih, Nat.add_right_comm,
      Nat.add_assoc]
    · intro i hi
      rw [BitVec.getMsbD_shiftLeft, Nat.add_comm i 1, htop (1 + i) (by omega), ← Nat.add_assoc, ← Nat.add_assoc]
    · rw [← BitVec.shiftLeft_add, Nat.add_comm, hrest]

/-- A byte masked to its top `n` bits. -/
def topBits (b : Byte) (n : Nat) : Byte := b &&& BitVec.ofNat 8 (0xFF <<< (8 - n))

theorem topBits_eight (b : Byte) : topBits b 8 = b := BitVec.and_allOnes

theorem topBits_eq (b : Byte) (n : Nat) : topBits b n = b &&& BitVec.allOnes 8 <<< (8 - n) := rfl

theorem topBits_getMsbD (b : Byte) {n : Nat} (hn : n ≤ 8) (i : Nat) :
    (topBits b n).getMsbD i = (b.getMsbD i && decide (i < n)) := by
  have hkept : i + (8 - n) < 8 ↔ i < n := by omega
  rw [topBits_eq, BitVec.getMsbD_and, BitVec.getMsbD_shiftLeft, BitVec.getMsbD_allOnes, decide_eq_decide.mpr hkept]

theorem topBits_shiftLeft (b : Byte) {n : Nat} (hn : n ≤ 8) : topBits b n <<< n = 0#8 := by
  apply BitVec.eq_of_getMsbD_eq
  intro i _
  rw [BitVec.getMsbD_shiftLeft, topBits_getMsbD b hn, decide_eq_false (by omega), Bool.and_false, BitVec.getMsbD_zero]

/-- The top bits of byte `k + j` are the frame bits from `8 (k + j)` on (R12): the procedure takes them as they come. -/
theorem crcByte_topBits (poly : BitVec 25) (m : Memory) (k j : Nat) {n : Nat} (hn : n ≤ 8) :
    crcByte poly (crcRegister poly m (8 * k) (8 * j)) (topBits (m.read (k + j)) n) n =
      crcRegister poly m (8 * k) (8 * j + n) := by
  refine crcByte_crcRegister poly m (8 * k) n (fun i hi => ?_) (topBits_shiftLeft _ hn)
  have hbyte : (8 * k + 8 * j + i) / 8 = k + j := by omega
  have hbit : 7 - (8 * k + 8 * j + i) % 8 = 8 - 1 - i := by omega
  rw [topBits_getMsbD _ hn, decide_eq_true hi, Bool.and_true, BitVec.getMsbD_eq_getLsbD, decide_eq_true (by omega),
    Bool.true_and, frameBit, hbyte, hbit]

/-! ## The byte-wise procedure (R145) -/

/-- The whole bytes of the procedure. -/
theorem foldl_crcByte (poly : BitVec 25) (m : Memory) (k n : Nat) :
    (List.range n).foldl (fun R i => crcByte poly R (m.read (k + i)) 8) 0#25 = crcRegister poly m (8 * k) (8 * n) := by
  induction n with
  | zero => rfl
  | succ n ih =>
    rw [List.range_succ, List.foldl_append, List.foldl_cons, List.foldl_nil, ih, Nat.mul_succ,
      ← crcByte_topBits poly m k n (Nat.le_refl 8), topBits_eight]

theorem byteWise_eq_crcRange (poly : BitVec 25) (m : Memory) (k nbits : Nat) :
    Spec.byteWise poly m k nbits = crcRange poly m (8 * k) nbits := by
  have hlast : nbits % 8 ≤ 8 := by omega
  rw [Spec.byteWise, foldl_crcByte, ← topBits, crcByte_topBits poly m k _ hlast, Nat.div_add_mod, crcRange]

/-- The source's procedure is the byte-wise procedure from byte 0 over 226 bits (R144). -/
theorem crc226_eq_byteWise (poly : BitVec 25) (m : Memory) : crc226 poly m = Spec.byteWise poly m 0 226 := by
  simp only [crc226, Spec.byteWise, Nat.zero_add]
  rfl

/-! ## The commands CRC and CHK (R146, R147) -/

theorem trailerAt_getLsbD (m : Memory) (off : Nat) {j : Nat} (hj : j < 24) :
    (trailerAt m off).getLsbD j = frameBit m (off + 23 - j) := by
  have hpos : off + 24 - 1 - j = off + 23 - j := by omega
  rw [trailerAt, Config.trailerW, BitVec.getLsbD_ofNat, frameBits_testBit, decide_eq_true hj, hpos, Bool.true_and,
    Bool.true_and]

/-- In bounds, CRC writes the CRC of the range, the verdict OK, and its completion (R146). -/
theorem exec_crc_of_le {start : BitVec 8} {n : BitVec 9} {s : State} (h : start.toNat + n.toNat ≤ bufBits s) :
    exec (.crc start n) s = .next { s with
      crcCalc := crcRange s.params.crcPoly s.frame start.toNat n.toNat, verdict := .ok, lastop := 0x2#4,
      pending := none } :=
  rangeChecked_of_le h _ _

/-- In bounds, CHK writes both checksums, the verdict of their comparison, and its completion (R147). -/
theorem exec_chk_of_le {start : BitVec 8} {n : BitVec 9} {s : State} (h : start.toNat + n.toNat + 24 ≤ bufBits s) :
    exec (.chk start n) s = .next { s with
      crcCalc := crcRange s.params.crcPoly s.frame start.toNat n.toNat,
      crcRecv := trailerAt s.frame (start.toNat + n.toNat),
      verdict := checksumVerdict (crcRange s.params.crcPoly s.frame start.toNat n.toNat)
        (trailerAt s.frame (start.toNat + n.toNat)),
      lastop := 0x3#4, pending := none } :=
  rangeChecked_of_le h _ _

end Sys2Proof.Machine

/-! PROOF. The words of CRC and CHK (R94, R146, R147). -/

namespace Sys2Proof

theorem decodeR_of_fields {w : Word} {op : Nat} {start : BitVec 8} {n : BitVec 9}
    (hw : w.toNat = op * 2 ^ 28 + start.toNat * 2 ^ 20 + n.toNat * 2 ^ 11) (i : BitVec 8 → BitVec 9 → Instr) :
    decodeR w i = .legal (i start n) := by
  have hstart : startField w = start := BitVec.eq_of_toNat_eq (by rw [startField_toNat]; omega)
  have hnbits : nbitsField w = n := BitVec.eq_of_toNat_eq (by rw [nbitsField_toNat]; omega)
  rcases decodeR_cases w i with ⟨-, hd⟩ | ⟨hbad, -⟩
  · rw [hd, hstart, hnbits]
  · omega

theorem decode_of_opcode_crc {w : Word} (hop : w.toNat / 2 ^ 28 = 2) : decode w = decodeR w .crc := by
  simp only [decode, opField_toNat, hop]

theorem decode_of_opcode_chk {w : Word} (hop : w.toNat / 2 ^ 28 = 3) : decode w = decodeR w .chk := by
  simp only [decode, opField_toNat, hop]

end Sys2Proof

/-! PROOF. The obligations of 41_checksum.md. -/

namespace Sys2Proof.Proofs.Checksum

open Sys2Proof.Machine

/-- Settles O32: a byte is as many bit-serial steps as it has bits that are not masked, then induction on the whole
bytes. -/
theorem byteWiseProcedureAgrees : Obligations.ByteWiseProcedureAgrees :=
  ⟨fun poly m => ((crc226_eq_byteWise poly m).trans (byteWise_eq_crcRange poly m 0 226)).symm,
    fun poly m k nbits => (byteWise_eq_crcRange poly m k nbits).symm⟩

/-- Settles O29: the step on naturals, and bit 24 clear before and after it. -/
theorem crcStepKeepsBit24Clear : Obligations.CrcStepKeepsBit24Clear :=
  fun poly R b hpoly hR => ⟨crcStep_toNat poly R b, crcShift_lt hpoly _, stepInput_shiftLeft_lt hR b⟩

/-- Settles O30: the two ends of CRC, the register as a number, and its word. -/
theorem crcComputesTheRange : Obligations.CrcComputesTheRange := by
  refine ⟨fun start n s h => ⟨_, exec_crc_of_le h, crcRange_toNat _ _ _ _⟩,
    fun start n s h => exec_of_bufBits_lt h, fun w start n hw => ?_, fun w hop hbad =>
      (decode_illegal_iff w).mpr (.inr (.inr (.inr ⟨.inl hop, hbad⟩)))⟩
  rw [decode_of_opcode_crc (by omega), decodeR_of_fields hw]

/-- Settles O31: the two ends of CHK, the register as a number, the bits of the trailer, and its word. -/
theorem chkComparesRangeAndTrailer : Obligations.ChkComparesRangeAndTrailer := by
  refine ⟨fun start n s h => ⟨_, _, exec_chk_of_le h, crcRange_toNat _ _ _ _, fun j hj => ?_⟩,
    fun start n s h => exec_of_bufBits_lt h, fun w start n hw => ?_⟩
  · rw [trailerAt_getLsbD _ _ hj, spec_frameBit_eq]
  · rw [decode_of_opcode_chk (by omega), decodeR_of_fields hw]

end Sys2Proof.Proofs.Checksum

/-! PROOF. The fixed fields of the header as numbers and in the frame's bytes (R170), the word of HDR (R63, R177), and
what each check of the gate chain asks (R172 to R176). -/

namespace Sys2Proof.Machine

/-! ## Fields and bytes -/

/-- A field of two parts: the first part, moved up by the width of the second. -/
theorem frameBits_add (m : Memory) (off a b : Nat) :
    frameBits m off (a + b) = frameBits m off a * 2 ^ b + frameBits m (off + a) b := by
  induction b with
  | zero => rw [Nat.add_zero, Nat.pow_zero, Nat.mul_one, frameBits_zero, Nat.add_zero]
  | succ b ih =>
    rw [← Nat.add_assoc, frameBits_succ, frameBits_succ, ih, Nat.pow_succ, Nat.add_assoc off a b, Nat.mul_add,
      Nat.mul_left_comm 2, Nat.mul_comm 2 (2 ^ b), Nat.add_assoc]

/-- A field that stays within byte `k`, from its bit `a` in frame order, is cut out of the byte (R12). -/
theorem frameBits_within_byte (m : Memory) (k a : Nat) {cnt : Nat} (h : a + cnt ≤ 8) :
    frameBits m (8 * k + a) cnt = (m.read k).toNat / 2 ^ (8 - a - cnt) % 2 ^ cnt := by
  apply Nat.eq_of_testBit_eq
  intro j
  rw [frameBits_testBit, Nat.testBit_mod_two_pow, Nat.testBit_div_two_pow, BitVec.testBit_toNat]
  by_cases hj : j < cnt
  · have hbyte : (8 * k + a + cnt - 1 - j) / 8 = k := by omega
    have hbit : 7 - (8 * k + a + cnt - 1 - j) % 8 = 8 - a - cnt + j := by omega
    rw [frameBit, hbyte, hbit, Nat.add_comm j]
  · rw [decide_eq_false hj, Bool.false_and, Bool.false_and]

/-- A field fits the bit vector of its width. -/
theorem ofNat_frameBits_toNat (m : Memory) (off w : Nat) :
    (BitVec.ofNat w (frameBits m off w)).toNat = frameBits m off w := by
  rw [BitVec.toNat_ofNat, Nat.mod_eq_of_lt (frameBits_lt m off w)]

/-! ## The fixed fields (R170) -/

@[simp] theorem preField_toNat (m : Memory) : (preField m).toNat = frameBits m 0 8 := ofNat_frameBits_toNat m 0 8

@[simp] theorem mtField_toNat (m : Memory) : (mtField m).toNat = frameBits m 8 6 := ofNat_frameBits_toNat m 8 6

@[simp] theorem rcField_toNat (m : Memory) : (rcField m).toNat = frameBits m 14 3 := ofNat_frameBits_toNat m 14 3

@[simp] theorem vnField_toNat (m : Memory) : (vnField m).toNat = frameBits m 214 6 := ofNat_frameBits_toNat m 214 6

@[simp] theorem trailerField_toNat (m : Memory) : (trailerField m).toNat = frameBits m 226 24 :=
  ofNat_frameBits_toNat m 226 24

theorem preField_eq_read (m : Memory) : preField m = m.read 0 := by
  apply BitVec.eq_of_toNat_eq
  have hbyte : frameBits m 0 8 = _ := frameBits_within_byte m 0 0 (cnt := 8) (by decide)
  rw [preField_toNat, hbyte]
  omega

theorem mtField_in_bytes (m : Memory) : (mtField m).toNat = (m.read 1).toNat / 2 ^ 2 := by
  have hbyte : frameBits m 8 6 = _ := frameBits_within_byte m 1 0 (cnt := 6) (by decide)
  rw [mtField_toNat, hbyte]
  omega

theorem rcField_in_bytes (m : Memory) :
    (rcField m).toNat = (m.read 1).toNat % 2 ^ 2 * 2 + (m.read 2).toNat / 2 ^ 7 := by
  have hparts : frameBits m 14 3 = _ := frameBits_add m 14 2 1
  have h1 : frameBits m 14 2 = _ := frameBits_within_byte m 1 6 (cnt := 2) (by decide)
  have h2 : frameBits m 16 1 = _ := frameBits_within_byte m 2 0 (cnt := 1) (by decide)
  rw [rcField_toNat, hparts, h1, h2]
  omega

theorem vnField_in_bytes (m : Memory) :
    (vnField m).toNat = (m.read 26).toNat % 2 ^ 2 * 2 ^ 4 + (m.read 27).toNat / 2 ^ 4 := by
  have hparts : frameBits m 214 6 = _ := frameBits_add m 214 2 4
  have h26 : frameBits m 214 2 = _ := frameBits_within_byte m 26 6 (cnt := 2) (by decide)
  have h27 : frameBits m 216 4 = _ := frameBits_within_byte m 27 0 (cnt := 4) (by decide)
  rw [vnField_toNat, hparts, h26, h27]
  omega

theorem trailerField_in_bytes (m : Memory) :
    (trailerField m).toNat =
      (m.read 28).toNat % 2 ^ 6 * 2 ^ 18 + (m.read 29).toNat * 2 ^ 10 + (m.read 30).toNat * 2 ^ 2 +
        (m.read 31).toNat / 2 ^ 6 := by
  have hparts24 : frameBits m 226 24 = _ := frameBits_add m 226 6 18
  have hparts18 : frameBits m 232 18 = _ := frameBits_add m 232 8 10
  have hparts10 : frameBits m 240 10 = _ := frameBits_add m 240 8 2
  have h28 : frameBits m 226 6 = _ := frameBits_within_byte m 28 2 (cnt := 6) (by decide)
  have h29 : frameBits m 232 8 = _ := frameBits_within_byte m 29 0 (cnt := 8) (by decide)
  have h30 : frameBits m 240 8 = _ := frameBits_within_byte m 30 0 (cnt := 8) (by decide)
  have h31 : frameBits m 248 2 = _ := frameBits_within_byte m 31 0 (cnt := 2) (by decide)
  rw [trailerField_toNat, hparts24, hparts18, hparts10, h28, h29, h30, h31]
  omega

/-! ## What each check asks -/

/-- A bit vector is in a list exactly when its number is among the list's numbers. -/
theorem toNat_mem_map_iff {w : Nat} (x : BitVec w) (l : List (BitVec w)) : x.toNat ∈ l.map BitVec.toNat ↔ x ∈ l :=
  ⟨fun h => by
    obtain ⟨y, hy, heq⟩ := List.mem_map.mp h
    exact BitVec.eq_of_toNat_eq heq ▸ hy, List.mem_map_of_mem⟩

theorem knownPreamble_eq_false_iff (P : Params) (pre : BitVec 8) :
    knownPreamble P pre = false ↔ pre ∉ [Config.preA, P.preB] := by
  rw [knownPreamble, Bool.or_eq_false_iff, beq_eq_false_iff_ne, beq_eq_false_iff_ne, List.mem_cons,
    List.mem_singleton, not_or]

theorem knownClassification_eq_false_iff (P : Params) (rc : BitVec 3) :
    knownClassification P rc = false ↔ rc ∉ P.rcCodes := by
  rw [knownClassification, ← Bool.not_eq_true, List.contains_iff_mem]

/-- The version gate stands on the JMA route only (R175). -/
theorem versionOk_eq_false_iff (P : Params) (r : Route) (vn : BitVec 6) :
    versionOk P r vn = false ↔ r = .jma ∧ vn ∉ P.supportedVn := by
  cases r with
  | jma => rw [versionOk, ← Bool.not_eq_true, List.contains_iff_mem, eq_self, true_and]
  | none | base | other => simp [versionOk]

theorem routeOf_eq_jma_iff (pre : BitVec 8) (mt : BitVec 6) :
    routeOf pre mt = .jma ↔ pre ≠ Config.preA ∧ mt = Config.jmaMt := by
  unfold routeOf
  by_cases hpre : pre = Config.preA
  · simp [hpre]
  · by_cases hmt : mt = Config.jmaMt <;> simp [hpre, hmt]

/-! ## The checks on numbers -/

theorem routeNumber_eq_code (r : Route) : Spec.routeNumber r = r.code.toNat := by cases r <;> rfl

theorem routeNumber_eq_two_iff (r : Route) : Spec.routeNumber r = 2 ↔ r = .jma := by
  cases r <;> simp [Spec.routeNumber]

theorem spec_route_eq (s : State) : Spec.route s = Spec.routeNumber (routeOf (preField s.frame) (mtField s.frame)) := by
  have hpre : frameBits s.frame 0 8 = 0x53 ↔ preField s.frame = Config.preA := by
    rw [← BitVec.toNat_inj, preField_toNat]
    rfl
  have hmt : frameBits s.frame 8 6 = 43 ↔ mtField s.frame = Config.jmaMt := by
    rw [← BitVec.toNat_inj, mtField_toNat]
    rfl
  simp only [Spec.route, routeOf, hpre, hmt, apply_ite Spec.routeNumber]
  rfl

/-- The validator's three checks are those on numbers. -/
theorem spec_validator_eq (s : State) (deeper : Verdict) : Spec.validator s deeper = validatorVerdict s deeper := by
  have hlen : s.flen.toNat ≠ 32 ↔ s.flen ≠ 32#16 := by
    rw [Ne, Ne, ← BitVec.toNat_inj]
    rfl
  have hpre : frameBits s.frame 0 8 ∉ [0x53, s.params.preB.toNat] ↔
      knownPreamble s.params (preField s.frame) = false := by
    rw [knownPreamble_eq_false_iff, ← toNat_mem_map_iff, preField_toNat]
    rfl
  have hrc : frameBits s.frame 14 3 ∉
      [s.params.rcMax.toNat, s.params.rcPri.toNat, s.params.rcReg.toNat, s.params.rcTrn.toNat] ↔
        knownClassification s.params (rcField s.frame) = false := by
    rw [knownClassification_eq_false_iff, ← toNat_mem_map_iff, rcField_toNat]
    rfl
  simp only [Spec.validator, validatorVerdict, hlen, hpre, hrc]

/-- The whole gate chain is the one on numbers. -/
theorem spec_parseVerdict_eq (s : State) : Spec.parseVerdict s = validatorVerdict s (gateVerdict s) := by
  have hcrc : Spec.crcRange s.params.crcPoly.toNat s.frame 0 226 ≠ frameBits s.frame 226 24 ↔
      crcRange s.params.crcPoly s.frame 0 Config.protBits ≠ trailerField s.frame := by
    rw [Ne, Ne, ← BitVec.toNat_inj, crcRange_toNat, trailerField_toNat]
    rfl
  have hvn : Spec.route s = 2 ∧ frameBits s.frame 214 6 ∉ s.params.supportedVn.map BitVec.toNat ↔
      versionOk s.params (routeOf (preField s.frame) (mtField s.frame)) (vnField s.frame) = false := by
    rw [versionOk_eq_false_iff, spec_route_eq, routeNumber_eq_two_iff, ← toNat_mem_map_iff, vnField_toNat]
  simp only [Spec.parseVerdict, spec_validator_eq, gateVerdict, hcrc, hvn]

/-! ## The order of the checks (R176) -/

/-- A verdict of the gate chain, with the checks passed on the way to it and the one that failed. -/
inductive GateChain (s : State) : Verdict → Prop where
  | invalidLength (hlen : s.flen ≠ 32#16) : GateChain s .invalidLength
  | invalidPreamble (hlen : s.flen = 32#16) (hpre : knownPreamble s.params (s.frame.read 0) = false) :
      GateChain s .invalidPreamble
  | invalidClassification (hlen : s.flen = 32#16) (hpre : knownPreamble s.params (s.frame.read 0) = true)
      (hrc : rcField s.frame ∉ s.params.rcCodes) : GateChain s .invalidClassification
  | checksumError (hlen : s.flen = 32#16) (hpre : knownPreamble s.params (s.frame.read 0) = true)
      (hrc : rcField s.frame ∈ s.params.rcCodes)
      (hcrc : crcRange s.params.crcPoly s.frame 0 226 ≠ trailerField s.frame) : GateChain s .checksumError
  | unsupportedVersion (hlen : s.flen = 32#16) (hpre : knownPreamble s.params (s.frame.read 0) = true)
      (hrc : rcField s.frame ∈ s.params.rcCodes)
      (hcrc : crcRange s.params.crcPoly s.frame 0 226 = trailerField s.frame)
      (hver : s.frame.read 0 ≠ 0x53#8 ∧ mtField s.frame = 43#6 ∧ vnField s.frame ∉ s.params.supportedVn) :
      GateChain s .unsupportedVersion
  | ok (hlen : s.flen = 32#16) (hpre : knownPreamble s.params (s.frame.read 0) = true)
      (hrc : rcField s.frame ∈ s.params.rcCodes)
      (hcrc : crcRange s.params.crcPoly s.frame 0 226 = trailerField s.frame)
      (hver : ¬ (s.frame.read 0 ≠ 0x53#8 ∧ mtField s.frame = 43#6 ∧ vnField s.frame ∉ s.params.supportedVn)) :
      GateChain s .ok

theorem gateChain_parse (s : State) : GateChain s (validatorVerdict s (gateVerdict s)) := by
  have hgate : versionOk s.params (routeOf (s.frame.read 0) (mtField s.frame)) (vnField s.frame) = false ↔
      s.frame.read 0 ≠ 0x53#8 ∧ mtField s.frame = 43#6 ∧ vnField s.frame ∉ s.params.supportedVn := by
    rw [versionOk_eq_false_iff, routeOf_eq_jma_iff, and_assoc]
    rfl
  simp only [validatorVerdict, gateVerdict, preField_eq_read, knownClassification_eq_false_iff, hgate, Config.protBits]
  by_cases hlen : s.flen = 32#16
  case neg =>
    rw [if_pos hlen]
    exact .invalidLength hlen
  rw [if_neg (not_not_intro hlen)]
  by_cases hpre : knownPreamble s.params (s.frame.read 0) = false
  case pos =>
    rw [if_pos hpre]
    exact .invalidPreamble hlen hpre
  rw [if_neg hpre]
  rw [Bool.not_eq_false] at hpre
  by_cases hrc : rcField s.frame ∈ s.params.rcCodes
  case neg =>
    rw [if_pos hrc]
    exact .invalidClassification hlen hpre hrc
  rw [if_neg (not_not_intro hrc)]
  by_cases hcrc : crcRange s.params.crcPoly s.frame 0 226 = trailerField s.frame
  case neg =>
    rw [if_pos hcrc]
    exact .checksumError hlen hpre hrc hcrc
  rw [if_neg (not_not_intro hcrc)]
  split
  case isTrue hver => exact .unsupportedVersion hlen hpre hrc hcrc hver
  case isFalse hver => exact .ok hlen hpre hrc hcrc hver

/-! ## The word of HDR (R63, R177) -/

theorem hdrWord_toNat (h : Hdr) :
    (hdrWord h).toNat = h.pre.toNat * 2 ^ 24 + h.mt.toNat * 2 ^ 18 + h.rc.toNat * 2 ^ 15 + h.vn.toNat * 2 ^ 9 +
      h.route.code.toNat * 2 ^ 7 + h.valid.toNat := by
  simp only [hdrWord, append_toNat, BitVec.toNat_ofNat, BitVec.toNat_ofBool]
  omega

theorem hdrWord_zero : hdrWord Hdr.zero = 0#32 := rfl

theorem hdrWord_hdrOf_toNat (s : State) : (hdrWord (hdrOf s.frame)).toNat = Spec.hdrNumber s := by
  rw [hdrWord_toNat, Spec.hdrNumber, spec_route_eq, routeNumber_eq_code]
  simp only [hdrOf, preField_toNat, mtField_toNat, rcField_toNat, vnField_toNat, Bool.toNat_true]

/-- What a verdict writes to HDR, as the number the host reads. -/
theorem hdrWord_reported_toNat (v : Verdict) (s : State) :
    (hdrWord (if v = .ok then hdrOf s.frame else Hdr.zero)).toNat = if v = .ok then Spec.hdrNumber s else 0 := by
  split
  case isTrue => exact hdrWord_hdrOf_toNat s
  case isFalse => rw [hdrWord_zero, BitVec.toNat_zero]

/-! ## The commands FVAL and PARSE (R178, R179) -/

theorem exec_fval (s : State) : exec .fval s = .next (complete .fval (reportVerdict (validatorVerdict s .ok) s)) := rfl

theorem exec_parse (s : State) :
    exec .parse s = .next (complete .parse (reportVerdict (validatorVerdict s (gateVerdict s)) s)) := rfl

theorem parse_next {s t : State} (h : exec .parse s = .next t) :
    t = complete .parse (reportVerdict (validatorVerdict s (gateVerdict s)) s) :=
  (Host.Outcome.next.inj h).symm

/-- Both commands report one verdict and complete. -/
theorem validator_next {i : Instr} (hi : i = .fval ∨ i = .parse) {s t : State} (h : exec i s = .next t) :
    ∃ v, t = complete i (reportVerdict v s) := by
  rcases hi with rfl | rfl <;> exact ⟨_, (Host.Outcome.next.inj h).symm⟩

/-- A report is no input of the checks: they read the frame, its length and the parameters. -/
theorem validatorVerdict_reported (i : Instr) (v : Verdict) (s : State) (deeper : Verdict) :
    validatorVerdict (complete i (reportVerdict v s)) deeper = validatorVerdict s deeper := rfl

theorem gateVerdict_reported (i : Instr) (v : Verdict) (s : State) :
    gateVerdict (complete i (reportVerdict v s)) = gateVerdict s := rfl

theorem hostRead_hdr (s : State) : hostRead 9#6 s = hdrWord s.hdr := rfl

/-- A frame of the wrong length is not looked at. -/
theorem exec_parse_of_flen_ne {s : State} (h : s.flen ≠ 32#16) :
    exec .parse s = .next (complete .parse (reportVerdict .invalidLength s)) := by
  rw [exec_parse, validatorVerdict, if_pos h]

/-- Behind an unknown preamble nothing else is looked at. -/
theorem exec_parse_of_unknown_preamble {s : State} (hlen : s.flen = 32#16)
    (hpre : knownPreamble s.params (preField s.frame) = false) :
    exec .parse s = .next (complete .parse (reportVerdict .invalidPreamble s)) := by
  rw [exec_parse, validatorVerdict, if_neg (not_not_intro hlen), if_pos hpre]

end Sys2Proof.Machine

/-! PROOF. The obligations of 42_validator.md. -/

namespace Sys2Proof.Proofs.Validator

open Sys2Proof.Machine

/-- Settles O37: the width of each field, and the bytes it is cut from. -/
theorem headerFieldsInBytes : Obligations.HeaderFieldsInBytes :=
  fun m => ⟨⟨preField_toNat m, mtField_toNat m, rcField_toNat m, vnField_toNat m, trailerField_toNat m⟩,
    preField_eq_read m, mtField_in_bytes m, rcField_in_bytes m, vnField_in_bytes m, trailerField_in_bytes m⟩

/-- Settles O38: the three checks on numbers, and the word of HDR. -/
theorem fvalValidatesTheHeader : Obligations.FvalValidatesTheHeader := by
  refine ⟨by decide, fun s => ⟨_, ?_, hdrWord_reported_toNat _ s⟩⟩
  rw [spec_validator_eq, exec_fval]
  rfl

/-- Settles O39: the gate chain on numbers, and the word of HDR. -/
theorem parseRunsTheGateChain : Obligations.ParseRunsTheGateChain := by
  refine ⟨by decide, fun s => ⟨_, ?_, hdrWord_reported_toNat _ s⟩⟩
  rw [spec_parseVerdict_eq, exec_parse]
  rfl

/-- Settles O40: the HDR that goes with the verdict both commands report. -/
theorem headerIsWholeOrZero : Obligations.HeaderIsWholeOrZero := by
  intro i s t hi h
  obtain ⟨v, rfl⟩ := validator_next hi h
  simp only [hostRead_hdr, complete_hdr, complete_verdict, reportVerdict_hdr, reportVerdict_verdict]
  refine ⟨fun hv => ?_, fun hv => ?_⟩
  · rw [if_pos hv, hdrWord_hdrOf_toNat]
  · rw [if_neg hv, hdrWord_zero]

/-- Settles O41: each verdict of the gate chain comes with the checks that decide it, and they exclude one another. -/
theorem checksRunInOrder : Obligations.ChecksRunInOrder := by
  intro s t h
  have hchain : GateChain s t.verdict := by
    rw [parse_next h]
    exact gateChain_parse s
  generalize t.verdict = v at hchain
  cases hchain <;> simp [*]

/-- Settles O42: the early ends of the chain, the route of the version gate, and that PARSE changes nothing it reads. -/
theorem parseConsequences : Obligations.ParseConsequences := by
  refine ⟨fun s m hlen => ⟨complete .parse (reportVerdict .invalidLength s), exec_parse_of_flen_ne hlen,
    exec_parse_of_flen_ne hlen, rfl⟩, fun s hlen hA hB => ⟨_, exec_parse_of_unknown_preamble hlen ?_, rfl⟩,
    fun s t hmt h hv => ?_, fun s t u ht hu => ?_⟩
  · rw [preField_eq_read, knownPreamble_eq_false_iff, List.mem_cons, List.mem_singleton, not_or]
    exact ⟨hA, hB⟩
  · obtain ⟨-, -, -, -, hversion⟩ := checksRunInOrder s t h
    obtain ⟨-, -, -, -, -, hjma, -⟩ := hversion.mp hv
    exact hmt hjma
  · obtain rfl := parse_next ht
    obtain rfl := parse_next hu
    simp only [complete_verdict, reportVerdict_verdict, complete_hdr, reportVerdict_hdr, complete_frame,
      reportVerdict_frame, gateVerdict_reported, validatorVerdict_reported, and_self]

end Sys2Proof.Proofs.Validator

/-! PROOF. The completion of NOP and the words of opcode 0 (R96, R99, R200). -/

namespace Sys2Proof.Machine

/-- The completion of NOP, with no result write in front of it (R200). -/
theorem exec_nop (s : State) : exec .nop s = .next { s with lastop := 0x0#4, pending := none } := rfl

end Sys2Proof.Machine

namespace Sys2Proof

/-- The one legal word of opcode 0 is zero, so any other fails the must-be-zero test of format N. -/
theorem decode_illegal_of_opcode_nop {w : Word} (hop : w.toNat / 2 ^ 28 = 0) (hw : w.toNat ≠ 0) :
    ∃ why, decode w = .illegal why := by
  have hz : w.toNat % 2 ^ 28 ≠ 0 := by omega
  exact (decode_illegal_iff w).mpr (.inr (.inl ⟨.inl hop, hz⟩))

end Sys2Proof

/-! PROOF. The obligation of 43_control.md. -/

namespace Sys2Proof.Proofs.Control

open Sys2Proof.Machine

/-- Settles O22: the completion of NOP, the words of opcode 0, and the overrun case of a write to `CMD`. -/
theorem nopWritesLastopOnly : Obligations.NopWritesLastopOnly := by
  refine ⟨exec_nop, by decide, fun w => decode_illegal_of_opcode_nop, fun s hf hp => ?_⟩
  have hcmd : Spec.Frozen cmdIndex := .inl rfl
  exact hostWrite_of_frozen hf hp hcmd (encode .nop)

end Sys2Proof.Proofs.Control

/-! PROOF. What records a fault: the range check of a command's engine step (BOUNDS), and a host write that is accepted
as an illegal word (ILLEGAL) or comes while a command is pending (OVERRUN); each makes the four writes of R212. -/

namespace Sys2Proof

/-- A legal word is the encoding of its command: opcode, operands and must-be-zero field leave no bit open (R96). -/
theorem LegalWord.encode_eq {w : Word} {i : Instr} (h : LegalWord w i) : encode i = w := by
  have hopcode : (opcode i).toNat = w.toNat / 2 ^ 28 := by rw [← h.opField_eq, opField_toNat]
  apply BitVec.eq_of_toNat_eq
  cases h with
  | nop _ hz | fval _ hz | parse _ hz =>
    rw [encode, formatN_toNat, hopcode]
    omega
  | ext _ hz _ =>
    rw [encode, formatX_toNat, hopcode, offField_toNat, cntField_toNat]
    omega
  | crc _ hz | chk _ hz =>
    rw [encode, formatR_toNat, hopcode, startField_toNat, nbitsField_toNat]
    omega

namespace Machine

/-- CMD stands at one word index only (R63). -/
theorem eq_cmdIndex_of_regAt {k : WordIndex} (h : regAt k = .cmd) : k = cmdIndex := by
  revert k
  decide

/-- A command that records a fault has failed its range check, and has written nothing else. -/
theorem exec_records_fault {i : Instr} {s t : State} (h : exec i s = .next t) (hs : s.faulted = false)
    (ht : t.faulted = true) : t = Spec.afterFault .bounds (encode i) s := by
  rcases exec_cases i s with ⟨hbounds, -⟩ | ⟨v, r, c, d, hdr, hdone⟩
  · rw [← raiseFault_eq_afterFault]
    exact Host.Outcome.next.inj (h.symm.trans hbounds)
  · obtain rfl := Host.Outcome.next.inj (h.symm.trans hdone)
    rw [complete_faulted, hs] at ht
    cases ht

/-- An engine's turn that records a fault ran the pending word, which the fault information holds. -/
theorem engineStep_records_fault {s t : State} (h : engineStep s = .next t) (hs : s.faulted = false)
    (ht : t.faulted = true) : ∃ w, s.pending = some w ∧ t = Spec.afterFault .bounds w s := by
  rcases engineStep_cases s with ⟨-, hidle⟩ | ⟨w, -, hp, ⟨i, hd, hrun⟩ | ⟨why, -, hrefused⟩⟩
  · obtain rfl := Host.Outcome.next.inj (h.symm.trans hidle)
    rw [hs] at ht
    cases ht
  · have hw : encode i = w := (legalWord_of_decode hd).encode_eq
    have hexec : exec i s = .next t := hrun.symm.trans h
    exact ⟨w, hp, hw ▸ exec_records_fault hexec hs ht⟩
  · cases h.symm.trans hrefused

/-- A write an idle block performs records a fault only at CMD, for an illegal word (R71). -/
theorem writeReg_records_fault {k : WordIndex} {v : Word} {s : State} (hs : s.faulted = false)
    (ht : (writeReg k v s).faulted = true) : k = cmdIndex ∧ writeReg k v s = Spec.afterFault .illegal v s := by
  rcases writeReg_cases k v s with ⟨hk, hw⟩ | ⟨-, hw⟩ | ⟨j, -, hw⟩ | ⟨-, hw⟩
  · rcases accept_cases v s with ⟨i, -, ha⟩ | ⟨why, -, ha⟩
    · rw [hw, ha, setPending_faulted, hs] at ht
      cases ht
    · exact ⟨eq_cmdIndex_of_regAt hk, by rw [hw, ha, raiseFault_eq_afterFault]⟩
  · rw [hw, setFlen_faulted, hs] at ht
    cases ht
  · rw [hw, setFrameWord_faulted, hs] at ht
    cases ht
  · rw [hw, hs] at ht
    cases ht

/-- A host write that records a fault is an illegal word at CMD of an idle block, or a write while a command is pending
(R69, R71). -/
theorem hostWrite_records_fault {k : WordIndex} {v : Word} {s : State} (hs : s.faulted = false)
    (ht : (hostWrite k v s).faulted = true) :
    (s.pending = none ∧ k = cmdIndex ∧ hostWrite k v s = Spec.afterFault .illegal v s) ∨
      s.pending ≠ none ∧ hostWrite k v s = Spec.afterFault .overrun (BitVec.ofNat 32 (4 * k.toNat)) s := by
  by_cases hp : s.pending = none
  · have hw := hostWrite_of_idle ⟨hs, hp⟩ k v
    rw [hw] at ht ⊢
    exact .inl ⟨hp, writeReg_records_fault hs ht⟩
  · by_cases hk : Spec.Frozen k
    · exact .inr ⟨hp, hostWrite_of_frozen hs hp hk v⟩
    · rw [hostWrite_of_not_frozen hk, hs] at ht
      cases ht

/-- A poll of `WAIT` is a read and records no fault (R102). -/
theorem waitTurn_faulted (s : State) : (waitTurn s).faulted = s.faulted := by
  unfold waitTurn
  split <;> rfl

/-- The only turns that record a fault are the engine's and a write. -/
theorem takeTurn_records_fault {e : Event} {s t : State} (h : takeTurn e s = .next t) (hs : s.faulted = false)
    (ht : t.faulted = true) :
    e = .engine ∧ engineStep s = .next t ∨ ∃ k v, e = .write k v ∧ hostWrite k v s = t := by
  cases e with
  | engine => exact .inl ⟨rfl, h⟩
  | write k v => exact .inr ⟨k, v, rfl, Host.Outcome.next.inj h⟩
  | read k =>
    obtain rfl := Host.Outcome.next.inj h
    cases hs.symm.trans ht
  | wait =>
    obtain rfl := Host.Outcome.next.inj h
    rw [waitTurn_faulted, hs] at ht
    cases ht
  | reset =>
    obtain rfl := Host.Outcome.next.inj h
    rw [resetBlock_faulted] at ht
    cases ht

theorem quietStep_of_not_faulted {s : State} (hs : s.faulted = false) : quietStep s = engineStep s := by
  rw [quietStep, hs]
  rfl

/-- A step that records a fault is an engine step or a host write, in the state with the turn taken. -/
theorem step_records_fault {s t : State} (h : step s = .next t) (hs : s.faulted = false) (ht : t.faulted = true) :
    ∃ turns, engineStep (setScript turns s) = .next t ∨
      ∃ k v, s.script = .write k v :: turns ∧ hostWrite k v (setScript turns s) = t := by
  rcases step_cases s with ⟨-, hquiet⟩ | ⟨e, rest, hscript, hturn⟩
  · rw [quietStep_of_not_faulted hs] at hquiet
    exact ⟨s.script, .inl (hquiet.symm.trans h)⟩
  · rcases takeTurn_records_fault (hturn.symm.trans h) hs ht with ⟨-, hengine⟩ | ⟨k, v, rfl, hwrite⟩
    · exact ⟨rest, .inl hengine⟩
    · exact ⟨rest, .inr ⟨k, v, hscript, hwrite⟩⟩

end Machine
end Sys2Proof

/-! PROOF. The obligation of 60_exceptions.md. -/

namespace Sys2Proof.Proofs.Exceptions

open Sys2Proof.Machine

/-- Settles O47: the step is an engine step (BOUNDS) or a host write (ILLEGAL, OVERRUN), each of which writes
`Spec.afterFault` over the state with the turn taken. -/
theorem faultEntryIsExact : Obligations.FaultEntryIsExact := by
  intro s t h hs ht
  obtain ⟨turns, hengine | ⟨k, v, hscript, rfl⟩⟩ := step_records_fault h hs ht
  · obtain ⟨w, hp, rfl⟩ := engineStep_records_fault (s := setScript turns s) hengine hs ht
    exact ⟨.bounds, w, rfl, .inl ⟨rfl, hp⟩⟩
  · rcases hostWrite_records_fault (s := setScript turns s) hs ht with ⟨hp, rfl, hw⟩ | ⟨hp, hw⟩
    · rw [hw]
      exact ⟨.illegal, v, rfl, .inr (.inl ⟨rfl, hp, turns, hscript⟩)⟩
    · rw [hw]
      exact ⟨.overrun, _, rfl, .inr (.inr ⟨rfl, hp, k, v, turns, hscript, rfl⟩)⟩

end Sys2Proof.Proofs.Exceptions

/-! PROOF. The words of a reset block: the empty frame buffer and every register of the map read 0 (R23, R241). -/

namespace Sys2Proof.Machine

theorem spec_frameBit_nil (i : Nat) : Spec.frameBit [] i = false := by
  rw [Spec.frameBit, read_nil, unlistedByte, BitVec.toNat_zero, Nat.zero_shiftRight]
  rfl

theorem readWord_nil (j : Nat) : Memory.readWord [] j = 0#32 := by
  simp only [Memory.readWord, read_nil]
  rfl

/-- Whichever register a word index names, its word is 0 after reset. -/
theorem hostRead_reset (k : WordIndex) : hostRead k State.reset = 0#32 := by
  rw [hostRead]
  cases regAt k with
  | hdr => exact hdrWord_zero
  | frame j => exact readWord_nil j
  | _ => rfl

end Sys2Proof.Machine

/-! PROOF. The obligation of 70_reset_and_hazards.md on the state after reset. -/

namespace Sys2Proof.Proofs.Reset

open Sys2Proof.Machine

/-- Settles O7: the frame after reset is the empty buffer, the other fields are at 0 as State.reset lists them, and the
host port shows nothing else. -/
theorem resetValues : Obligations.ResetValues :=
  ⟨fun i _ => spec_frameBit_nil i, rfl, rfl, rfl, rfl, rfl, rfl, rfl, rfl, rfl, rfl, rfl, hdrWord_zero, hostRead_reset⟩

end Sys2Proof.Proofs.Reset

/-! PROOF. The words of well-formed commands: both round trips (R90 to R99), the encoding functions of the opcode map as
numbers (R96), and what the assembler emits and refuses (R101). -/

namespace Sys2Proof

/-- The opcode field of a command's word is one of the six opcodes of R96 (R91). -/
theorem opcodeField_encode (i : Instr) : Laws.OpcodeField.Statement i := by
  cases i with
  | nop => exact Laws.OpcodeField.nop
  | ext off cnt => exact Laws.OpcodeField.ext off cnt
  | crc start n => exact Laws.OpcodeField.crc start n
  | chk start n => exact Laws.OpcodeField.chk start n
  | fval => exact Laws.OpcodeField.fval
  | parse => exact Laws.OpcodeField.parse

theorem opcode_toNat (i : Instr) : (opcode i).toNat = (encode i).toNat / 2 ^ 28 := by
  rw [← opField_toNat, (opcodeField_encode i).1]

theorem opcode_toNat_le (i : Instr) : (opcode i).toNat ≤ 5 := (opcodeField_encode i).2

/-- Every well-formed command decodes back from its word. -/
theorem decode_encode {i : Instr} (h : i.wf = true) : decode (encode i) = .legal i := by
  cases i with
  | nop | fval | parse => rfl
  | ext off cnt => exact decode_ext (of_decide_eq_true h) (formatX_toNat 0x1#4 off cnt)
  | crc start n =>
    exact (decode_of_opcode_crc (opcode_toNat (.crc start n)).symm).trans
      (decodeR_of_fields (formatR_toNat 0x2#4 start n) .crc)
  | chk start n =>
    exact (decode_of_opcode_chk (opcode_toNat (.chk start n)).symm).trans
      (decodeR_of_fields (formatR_toNat 0x3#4 start n) .chk)

theorem LegalWord.wf {w : Word} {i : Instr} (h : LegalWord w i) : i.wf = true := by
  cases h with
  | ext _ _ hcnt => exact decide_eq_true (by rw [cntField_toNat]; exact hcnt)
  | _ => rfl

/-- A legal word is the encoding of its command. -/
theorem encode_of_decode {w : Word} {i : Instr} (h : decode w = .legal i) : encode i = w :=
  (legalWord_of_decode h).encode_eq

/-- A word of format X as its shifted fields, side by side (R93). -/
theorem formatX_toNat_or (op : BitVec 4) (off : BitVec 8) (cnt : BitVec 7) :
    (formatX op off cnt).toNat = op.toNat <<< 28 ||| off.toNat <<< 20 ||| cnt.toNat <<< 13 := by
  simp only [formatX, BitVec.toNat_append, BitVec.toNat_zero, Nat.shiftLeft_or_distrib, ← Nat.shiftLeft_add,
    Nat.or_zero]

/-- A word of format R as its shifted fields, side by side (R94). -/
theorem formatR_toNat_or (op : BitVec 4) (start : BitVec 8) (n : BitVec 9) :
    (formatR op start n).toNat = op.toNat <<< 28 ||| start.toNat <<< 20 ||| n.toNat <<< 11 := by
  simp only [formatR, BitVec.toNat_append, BitVec.toNat_zero, Nat.shiftLeft_or_distrib, ← Nat.shiftLeft_add,
    Nat.or_zero]

namespace Machine

/-! ## The assembler (R101) -/

theorem assembleCommand_asmOf {i : Instr} (h : i.wf = true) : assembleCommand (Spec.asmOf i) = some (encode i) := by
  cases i with
  | nop | fval | parse => rfl
  | ext off cnt =>
    have hcnt : cnt.toNat ≤ 64 := of_decide_eq_true h
    rw [Spec.asmOf, assembleCommand, if_pos ⟨off.isLt, hcnt⟩, BitVec.ofNat_toNat, BitVec.ofNat_toNat,
      BitVec.setWidth_eq, BitVec.setWidth_eq]
  | crc start n | chk start n =>
    rw [Spec.asmOf, assembleCommand, if_pos ⟨start.isLt, n.isLt⟩, BitVec.ofNat_toNat, BitVec.ofNat_toNat,
      BitVec.setWidth_eq, BitVec.setWidth_eq]

/-- What the assembler emits is the word of a well-formed command, with the operands as given, or a number behind
`.word`. -/
theorem assembleCommand_eq_some {c : AsmCommand} {w : Word} (h : assembleCommand c = some w) :
    (∃ i, i.wf = true ∧ encode i = w ∧ c = Spec.asmOf i) ∨ ∃ v, c = .word v ∧ w.toNat = v := by
  cases c with
  | nop | fval | parse => exact .inl ⟨_, rfl, Option.some.inj h, rfl⟩
  | ext off cnt =>
    obtain ⟨⟨hoff, hcnt⟩, hw⟩ := Option.ite_none_right_eq_some.mp h
    have hcnt' : cnt % 2 ^ 7 = cnt := by omega
    refine .inl ⟨.ext (BitVec.ofNat 8 off) (BitVec.ofNat 7 cnt), ?_, Option.some.inj hw, ?_⟩
    · exact decide_eq_true (by rw [BitVec.toNat_ofNat, hcnt']; exact hcnt)
    · rw [Spec.asmOf, BitVec.toNat_ofNat, BitVec.toNat_ofNat, hcnt', Nat.mod_eq_of_lt hoff]
  | crc start n | chk start n =>
    obtain ⟨⟨hstart, hn⟩, hw⟩ := Option.ite_none_right_eq_some.mp h
    refine .inl ⟨_, ?_, Option.some.inj hw, ?_⟩
    · rfl
    · rw [Spec.asmOf, BitVec.toNat_ofNat, BitVec.toNat_ofNat, Nat.mod_eq_of_lt hstart, Nat.mod_eq_of_lt hn]
  | word v =>
    obtain ⟨hv, hw⟩ := Option.ite_none_right_eq_some.mp h
    exact .inr ⟨v, rfl, by rw [← Option.some.inj hw, BitVec.toNat_ofNat, Nat.mod_eq_of_lt hv]⟩

end Machine
end Sys2Proof

/-! PROOF. The round trips, the opcode map and the assembler of 30_encoding.md. -/

namespace Sys2Proof.Proofs.RoundTrip

open Sys2Proof.Machine

/-- Settles O1: the fields of the encoded word, put back by the format of its opcode. -/
theorem decodeEncodeRoundTrip : Obligations.DecodeEncodeRoundTrip :=
  fun _ h => decode_encode h

/-- Settles O2: opcode, operands and must-be-zero field of a legal word leave no bit open. -/
theorem encodeDecodeRoundTrip : Obligations.EncodeDecodeRoundTrip :=
  fun _ _ h => ⟨(legalWord_of_decode h).wf, encode_of_decode h⟩

/-- Settles O5: each format as its shifted fields, and the opcode at the top of the word. -/
theorem encodingFunctionsOfTheOpcodeMap : Obligations.EncodingFunctionsOfTheOpcodeMap :=
  ⟨rfl, rfl, rfl, formatX_toNat_or 0x1#4,
    fun start n => ⟨formatR_toNat_or 0x2#4 start n, formatR_toNat_or 0x3#4 start n⟩, opcode_toNat⟩

/-- Settles O6: seven closed words. -/
theorem sampleWordsDecode : Obligations.SampleWordsDecode := by
  unfold Obligations.SampleWordsDecode
  decide

/-- Settles O58: an emitted word is that of a well-formed command, and an operand out of range fails its test. -/
theorem assemblerEmitsOnlyLegalCommands : Obligations.AssemblerEmitsOnlyLegalCommands := by
  refine ⟨fun c w h => (assembleCommand_eq_some h).imp_left ?_, fun i => assembleCommand_asmOf, fun off cnt h => ?_,
    fun start n h => ?_⟩
  · rintro ⟨i, hwf, rfl, rfl⟩
    exact ⟨i, decode_encode hwf, rfl⟩
  · have hbad : ¬ (off < 256 ∧ cnt ≤ 64) := by omega
    exact if_neg hbad
  · have hbad : ¬ (start < 256 ∧ n < 512) := by omega
    exact ⟨if_neg hbad, if_neg hbad⟩

end Sys2Proof.Proofs.RoundTrip

/-! PROOF. The engine: its turn enabled and not enabled (R72), a command as its range check in front of its own result
writes, and the frame bits a command reads (R120, R123). -/

namespace Sys2Proof.Machine

/-! ## The engine's turn (R72) -/

theorem engineStep_of_not_enabled {s : State} (h : s.pending = none ∨ s.faulted = true) : engineStep s = .next s := by
  rcases engineStep_cases s with ⟨-, hstep⟩ | ⟨w, hf, hp, -⟩
  · exact hstep
  · simp [hf, hp] at h

theorem engineStep_of_legal {s : State} {w : Word} {i : Instr} (hf : s.faulted = false) (hp : s.pending = some w)
    (hd : decode w = .legal i) : engineStep s = exec i s := by
  rcases engineStep_cases s with ⟨hdisabled, -⟩ | ⟨w', -, hp', hends⟩
  · simp [hf, hp] at hdisabled
  · obtain rfl := Option.some.inj (hp.symm.trans hp')
    rcases hends with ⟨j, hd', hrun⟩ | ⟨why, hd', -⟩
    · rw [hrun, Decoded.legal.inj (hd.symm.trans hd')]
    · cases hd.symm.trans hd'

/-! ## A command's own result writes -/

/-- What a command in bounds writes before its completion (R124, R146, R147, R178, R179, R200). -/
def resultWrites (i : Instr) (s : State) : State :=
  match i with
  | .nop => s
  | .ext off cnt => setVerdict .ok (setResult (BitVec.ofNat 64 (frameBits s.frame off.toNat cnt.toNat)) s)
  | .crc start n => setVerdict .ok (setCrcCalc (crcRange s.params.crcPoly s.frame start.toNat n.toNat) s)
  | .chk start n =>
    setVerdict (checksumVerdict (crcRange s.params.crcPoly s.frame start.toNat n.toNat)
        (trailerAt s.frame (start.toNat + n.toNat)))
      (setCrcRecv (trailerAt s.frame (start.toNat + n.toNat))
        (setCrcCalc (crcRange s.params.crcPoly s.frame start.toNat n.toNat) s))
  | .fval => reportVerdict (validatorVerdict s .ok) s
  | .parse => reportVerdict (validatorVerdict s (gateVerdict s)) s

/-- Every command is its range check in front of its result writes; NOP, FVAL and PARSE need no frame bits. -/
theorem exec_eq_resultWrites (i : Instr) (s : State) :
    exec i s = rangeChecked i (Spec.needed i) s (resultWrites i s) := by
  cases i with
  | ext off cnt | crc start n | chk start n => rfl
  | nop | fval | parse => exact (rangeChecked_of_le (Nat.zero_le _) _ _).symm

theorem exec_of_le {i : Instr} {s : State} (h : Spec.needed i ≤ bufBits s) :
    exec i s = .next (complete i (resultWrites i s)) := by
  rw [exec_eq_resultWrites, rangeChecked_of_le h]

/-- The two ends of a command. -/
theorem exec_next {i : Instr} {s t : State} (h : exec i s = .next t) :
    bufBits s < Spec.needed i ∧ t = Spec.afterFault .bounds (encode i) s ∨
      Spec.needed i ≤ bufBits s ∧ t = complete i (resultWrites i s) := by
  rcases Nat.lt_or_ge (bufBits s) (Spec.needed i) with hlt | hle
  · exact .inl ⟨hlt, (Host.Outcome.next.inj ((exec_of_bufBits_lt hlt).symm.trans h)).symm⟩
  · exact .inr ⟨hle, (Host.Outcome.next.inj ((exec_of_le hle).symm.trans h)).symm⟩

section
variable (i : Instr) (s : State)

@[simp] theorem resultWrites_frame : (resultWrites i s).frame = s.frame := by cases i <;> rfl
@[simp] theorem resultWrites_flen : (resultWrites i s).flen = s.flen := by cases i <;> rfl
@[simp] theorem resultWrites_faulted : (resultWrites i s).faulted = s.faulted := by cases i <;> rfl
@[simp] theorem resultWrites_faultCause : (resultWrites i s).faultCause = s.faultCause := by cases i <;> rfl
@[simp] theorem resultWrites_faultInfo : (resultWrites i s).faultInfo = s.faultInfo := by cases i <;> rfl
@[simp] theorem resultWrites_params : (resultWrites i s).params = s.params := by cases i <;> rfl
@[simp] theorem resultWrites_script : (resultWrites i s).script = s.script := by cases i <;> rfl
@[simp] theorem resultWrites_reads : (resultWrites i s).reads = s.reads := by cases i <;> rfl

variable {i s}

theorem resultWrites_result (h : ∀ off cnt, i ≠ .ext off cnt) : (resultWrites i s).result = s.result := by
  cases i with
  | ext off cnt => exact absurd rfl (h off cnt)
  | _ => rfl

theorem resultWrites_crcCalc (h : ∀ a n, i ≠ .crc a n ∧ i ≠ .chk a n) : (resultWrites i s).crcCalc = s.crcCalc := by
  cases i with
  | crc a n => exact absurd rfl (h a n).1
  | chk a n => exact absurd rfl (h a n).2
  | _ => rfl

theorem resultWrites_crcRecv (h : ∀ a n, i ≠ .chk a n) : (resultWrites i s).crcRecv = s.crcRecv := by
  cases i with
  | chk a n => exact absurd rfl (h a n)
  | _ => rfl

theorem resultWrites_hdr (hfval : i ≠ .fval) (hparse : i ≠ .parse) : (resultWrites i s).hdr = s.hdr := by
  cases i with
  | fval => exact absurd rfl hfval
  | parse => exact absurd rfl hparse
  | _ => rfl

end

/-- The turns to come and the host's notes are no input of a command. -/
theorem exec_of_turns {i : Instr} {s t : State} (h : exec i s = .next t) (turns : List Event)
    (notes : List ReadRecord) :
    exec i { s with script := turns, reads := notes } = .next { t with script := turns, reads := notes } := by
  rcases exec_next h with ⟨hlt, rfl⟩ | ⟨hle, rfl⟩
  · exact exec_of_bufBits_lt (s := { s with script := turns, reads := notes }) hlt
  · rw [exec_of_le (s := { s with script := turns, reads := notes }) hle]
    cases i <;> rfl

/-! ## The frame bits a command reads (R120, R123) -/

/-- The CRC of a range reads the bits of the range alone. -/
theorem crcRange_congr {poly : BitVec 25} {m m' : Memory} {start n : Nat}
    (h : ∀ b, start ≤ b → b < start + n → frameBit m b = frameBit m' b) :
    crcRange poly m start n = crcRange poly m' start n := by
  have hregister : crcRegister poly m start n = crcRegister poly m' start n := by
    induction n with
    | zero => rw [crcRegister_zero, crcRegister_zero]
    | succ n ih =>
      rw [crcRegister_succ, crcRegister_succ, ih fun b hlo hhi => h b hlo (by omega), h _ (by omega) (by omega)]
  rw [crcRange, crcRange, hregister]

theorem trailerAt_congr {m m' : Memory} {off : Nat}
    (h : ∀ b, off ≤ b → b < off + 24 → frameBit m b = frameBit m' b) : trailerAt m off = trailerAt m' off := by
  rw [trailerAt, trailerAt, Config.trailerW, frameBits_congr h]

section
variable {m m' : Memory} (h : ∀ b, b < 250 → frameBit m b = frameBit m' b)
include h

/-- The header is cut from bits 0 to 249 (R170). -/
theorem hdrOf_congr : hdrOf m = hdrOf m' := by
  have hfield (off cnt : Nat) (hle : off + cnt ≤ 250) : frameBits m off cnt = frameBits m' off cnt :=
    frameBits_congr fun b _ hb => h b (by omega)
  simp only [hdrOf, preField, mtField, rcField, vnField, hfield 0 8 (by decide), hfield 8 6 (by decide),
    hfield 14 3 (by decide), hfield 214 6 (by decide)]

/-- The validator reads the fields of the header alone. -/
theorem validatorVerdict_congr {s : State} (hs : s.frame = m) (deeper : Verdict) :
    validatorVerdict { s with frame := m' } deeper = validatorVerdict s deeper := by
  have hdr := hdrOf_congr h
  have hpre : preField m = preField m' := congrArg Hdr.pre hdr
  have hrc : rcField m = rcField m' := congrArg Hdr.rc hdr
  simp only [validatorVerdict, hs, hpre, hrc]

/-- The deeper checks read the fields of the header, the protected range and the trailer. -/
theorem gateVerdict_congr {s : State} (hs : s.frame = m) : gateVerdict { s with frame := m' } = gateVerdict s := by
  have hdr := hdrOf_congr h
  have hroute : routeOf (preField m) (mtField m) = routeOf (preField m') (mtField m') := congrArg Hdr.route hdr
  have hvn : vnField m = vnField m' := congrArg Hdr.vn hdr
  have hcrc (poly : BitVec 25) : crcRange poly m 0 Config.protBits = crcRange poly m' 0 Config.protBits :=
    crcRange_congr (start := 0) (n := 226) fun b _ hb => h b (by omega)
  have htrailer : trailerField m = trailerField m' :=
    trailerAt_congr (off := 226) fun b _ hb => h b (by omega)
  simp only [gateVerdict, hs, hroute, hvn, hcrc, htrailer]

end

/-- FVAL and PARSE read bits 0 to 249 alone. -/
theorem resultWrites_validator_congr {i : Instr} (hi : i = .fval ∨ i = .parse) {s : State} {m : Memory}
    (h : ∀ b, b < 250 → frameBit s.frame b = frameBit m b) :
    resultWrites i { s with frame := m } = { resultWrites i s with frame := m } := by
  have hdr := hdrOf_congr h
  rcases hi with rfl | rfl
  · simp only [resultWrites, validatorVerdict_congr h rfl, reportVerdict, setHdr, setVerdict, hdr]
  · simp only [resultWrites, validatorVerdict_congr h rfl, gateVerdict_congr h rfl, reportVerdict, setHdr, setVerdict,
      hdr]

/-- A frame of the wrong length gives FVAL and PARSE one outcome, whatever it holds. -/
theorem resultWrites_validator_of_flen_ne {i : Instr} (hi : i = .fval ∨ i = .parse) {s : State} (h : s.flen ≠ 32#16) :
    resultWrites i s = reportVerdict .invalidLength s := by
  rcases hi with rfl | rfl
  all_goals rw [resultWrites, validatorVerdict, if_pos h]

/-- A command in bounds reads nothing past the declared length. -/
theorem resultWrites_congr {i : Instr} {s : State} {m : Memory} (hle : Spec.needed i ≤ bufBits s)
    (h : ∀ b, b < bufBits s → frameBit s.frame b = frameBit m b) :
    resultWrites i { s with frame := m } = { resultWrites i s with frame := m } := by
  have hvalidator (hi : i = .fval ∨ i = .parse) :
      resultWrites i { s with frame := m } = { resultWrites i s with frame := m } := by
    by_cases hlen : s.flen = 32#16
    · have hbuf : bufBits s = 256 := by rw [bufBits, hlen]; rfl
      exact resultWrites_validator_congr hi fun b hb => h b (by omega)
    · rw [resultWrites_validator_of_flen_ne hi hlen,
        resultWrites_validator_of_flen_ne (s := { s with frame := m }) hi hlen]
      rfl
  cases i with
  | nop => rfl
  | ext off cnt =>
    have hfield : frameBits s.frame off.toNat cnt.toNat = frameBits m off.toNat cnt.toNat :=
      frameBits_congr fun b _ hb => h b (Nat.lt_of_lt_of_le hb hle)
    simp only [resultWrites, hfield, setResult, setVerdict]
  | crc start n =>
    have hcrc : crcRange s.params.crcPoly s.frame start.toNat n.toNat =
        crcRange s.params.crcPoly m start.toNat n.toNat :=
      crcRange_congr fun b _ hb => h b (Nat.lt_of_lt_of_le hb hle)
    simp only [resultWrites, hcrc, setCrcCalc, setVerdict]
  | chk start n =>
    have hend : start.toNat + n.toNat + 24 ≤ bufBits s := hle
    have hcrc : crcRange s.params.crcPoly s.frame start.toNat n.toNat =
        crcRange s.params.crcPoly m start.toNat n.toNat :=
      crcRange_congr fun b _ hb => h b (by omega)
    have htrailer : trailerAt s.frame (start.toNat + n.toNat) = trailerAt m (start.toNat + n.toNat) :=
      trailerAt_congr fun b _ hb => h b (by omega)
    simp only [resultWrites, hcrc, htrailer, setCrcCalc, setCrcRecv, setVerdict]
  | fval => exact hvalidator (.inl rfl)
  | parse => exact hvalidator (.inr rfl)

end Sys2Proof.Machine

/-! PROOF. The obligations on the engine's turn and on what a command reads and leaves unchanged. -/

namespace Sys2Proof.Proofs.Engine

open Sys2Proof.Machine

/-- Settles O19: an enabled engine runs the command of the pending word. -/
theorem stepRunsTheDecodedCommand : Obligations.StepRunsTheDecodedCommand := by
  intro s w i hf hp hd
  refine ⟨fun rest hs => ?_, fun hs => ?_⟩
  · rw [step_of_script hs]
    exact engineStep_of_legal (s := setScript rest s) hf hp hd
  · rw [step, hs]
    exact (quietStep_of_not_faulted hf).trans (engineStep_of_legal hf hp hd)

/-- Settles O20: the turn not enabled, and the two ends of the command it runs when it is. -/
theorem engineTurnCompletesOrFaults : Obligations.EngineTurnCompletesOrFaults := by
  intro s rest hs
  refine ⟨fun h => ?_, fun w i hf hp hd => ?_⟩
  · rw [step_of_script hs]
    exact engineStep_of_not_enabled (s := setScript rest s) h
  · have hw := encode_of_decode hd
    rw [(stepRunsTheDecodedCommand s w i hf hp hd).1 rest hs]
    rcases exec_cases i { s with script := rest } with ⟨hbounds, -⟩ | ⟨v, r, c, d, h, hdone⟩
    · exact ⟨_, hbounds, .inl (by rw [raiseFault_eq_afterFault, hw])⟩
    · exact ⟨_, hdone, .inr ⟨by rw [complete_lastop, opcode_toNat, hw], rfl⟩⟩

/-- Settles O21: the presented word is pending in a block without a fault, and the next turn is the engine's. -/
theorem fetchWordRunsTheCommand : Obligations.FetchWordRunsTheCommand := by
  intro s w i h
  have hd : decode (BitVec.ofNat 32 (w % 2 ^ 32)) = .legal i := by
    obtain ⟨-, hword⟩ := Option.ite_none_right_eq_some.mp h
    split at hword
    case h_1 j hj => rw [hj, Option.some.inj hword]
    case h_2 => cases hword
  exact (stepRunsTheDecodedCommand (s.withFetchWord 32 w) _ i rfl rfl hd).1 s.script rfl

/-- Settles O9: length 0 is the wrong length, and no frame bit lies below it. -/
theorem commandsWithoutAFrame : Obligations.CommandsWithoutAFrame := by
  intro s hs
  have hlen : s.flen ≠ 32#16 := by rw [hs]; decide
  have hbuf : bufBits s = 0 := by rw [bufBits, hs]; rfl
  have hvalidator {i : Instr} (hi : i = .fval ∨ i = .parse) (hle : Spec.needed i ≤ bufBits s) :
      ∃ t, exec i s = .next t ∧ t.verdict = .invalidLength :=
    ⟨_, exec_of_le hle, by rw [resultWrites_validator_of_flen_ne hi hlen]; rfl⟩
  refine ⟨hvalidator (.inl rfl) (Nat.zero_le _), hvalidator (.inr rfl) (Nat.zero_le _), fun off cnt hcnt => ?_,
    fun start n hn => ?_, fun start n => ?_⟩
  all_goals
    apply exec_of_bufBits_lt
    simp only [hbuf, Spec.needed]
    omega

/-- Settles O27: the two ends of a command, the fault entry and the completion after its own result writes. -/
theorem frameOfEveryCommand : Obligations.FrameOfEveryCommand := by
  intro i s t h
  rcases exec_next h with ⟨hlt, rfl⟩ | ⟨hle, rfl⟩
  · exact ⟨fun _ => rfl, ⟨rfl, rfl, rfl, rfl, rfl⟩, fun _ => rfl, fun _ => rfl, fun _ => rfl, fun _ _ => rfl,
      fun _ => rfl, fun hle => absurd hlt (Nat.not_lt.mpr hle), fun _ => ⟨rfl, rfl, rfl, rfl, rfl, rfl⟩⟩
  · refine ⟨fun a => ?_, ⟨?_, ?_, ?_, ?_, ?_⟩, resultWrites_result, resultWrites_crcCalc, resultWrites_crcRecv,
      resultWrites_hdr, fun hi => by rw [hi]; rfl, fun _ => ⟨?_, ?_, ?_⟩, fun hlt => absurd hlt (Nat.not_lt.mpr hle)⟩
    all_goals simp

/-- Settles O28: out of bounds reads nothing, and in bounds the result writes read below the declared length. -/
theorem nothingPastTheDeclaredLengthIsRead : Obligations.NothingPastTheDeclaredLengthIsRead := by
  intro i s t m h ht
  simp only [spec_frameBit_eq] at h
  rcases exec_next ht with ⟨hlt, rfl⟩ | ⟨hle, rfl⟩
  · exact exec_of_bufBits_lt (s := { s with frame := m }) hlt
  · rw [exec_of_le (s := { s with frame := m }) hle, resultWrites_congr hle h]
    rfl

/-- Settles O43: the last field of the header, the trailer, ends at bit 249. -/
theorem paddingBitsAreNeverRead : Obligations.PaddingBitsAreNeverRead := by
  intro i s t m hi h ht
  simp only [spec_frameBit_eq] at h
  have hnone : Spec.needed i ≤ bufBits s := by rcases hi with rfl | rfl <;> exact Nat.zero_le _
  obtain rfl := Host.Outcome.next.inj (ht.symm.trans (exec_of_le hnone))
  rw [exec_of_le (s := { s with frame := m }) hnone, resultWrites_validator_congr hi h]
  rfl

end Sys2Proof.Proofs.Engine

/-! PROOF. The register map as numbers (R63). -/

namespace Sys2Proof.Machine

theorem verdictNumber_eq_code (v : Verdict) : Spec.verdictNumber v = v.code.toNat := by cases v <;> rfl

theorem causeNumber_eq_code (c : FaultCause) : Spec.causeNumber c = c.code.toNat := by cases c <;> rfl

theorem statusWord_toNat (s : State) :
    (statusWord s).toNat =
      s.verdict.code.toNat + s.lastop.toNat * 2 ^ 4 + s.pending.isSome.toNat * 2 ^ 8 + s.faulted.toNat * 2 ^ 9 := by
  simp only [statusWord, busy, append_toNat, BitVec.toNat_ofBool, BitVec.toNat_ofNat]
  omega

theorem faultWord_toNat (s : State) : (faultWord s).toNat = s.faultCause.code.toNat := by
  rw [faultWord, append_toNat, BitVec.toNat_ofNat]
  omega

theorem readWord_toNat (m : Memory) (j : Nat) :
    (m.readWord j).toNat =
      (m.read (4 * j)).toNat * 2 ^ 24 + (m.read (4 * j + 1)).toNat * 2 ^ 16 + (m.read (4 * j + 2)).toNat * 2 ^ 8 +
        (m.read (4 * j + 3)).toNat := by
  simp only [Memory.readWord, append_toNat]
  omega

theorem hostRead_frameIndex (j : Fin 8) (s : State) : hostRead (frameIndex j) s = s.frame.readWord j := by
  rw [hostRead, regAt_frameIndex]

end Sys2Proof.Machine

namespace Sys2Proof.Proofs.Registers

open Sys2Proof.Machine

/-- Settles O10: the word of each row of the map, side by side from its fields. -/
theorem readsReturnTheRegisterMap : Obligations.ReadsReturnTheRegisterMap := by
  intro s
  refine ⟨rfl, ?_, ?_, rfl, BitVec.toNat_setWidth_of_le (b := s.flen) (by decide), ?_, ?_,
    BitVec.toNat_setWidth_of_le (b := s.crcCalc) (by decide), BitVec.toNat_setWidth_of_le (b := s.crcRecv) (by decide),
    ?_, fun k hk => hostRead_of_unmapped (regAt_eq_unmapped hk) s, fun k hlo hhi => ?_⟩
  · rw [verdictNumber_eq_code]
    exact statusWord_toNat s
  · rw [causeNumber_eq_code]
    exact faultWord_toNat s
  · have hhi : hostRead 5#6 s = s.result.extractLsb' 32 32 := rfl
    rw [hhi, field_toNat]
    omega
  · have hlo : hostRead 6#6 s = s.result.extractLsb' 0 32 := rfl
    rw [hlo, field_toNat, Nat.pow_zero, Nat.div_one]
  · rw [routeNumber_eq_code]
    exact hdrWord_toNat s.hdr
  · have hj : k.toNat - 16 < 8 := by omega
    have hk : k = frameIndex ⟨k.toNat - 16, hj⟩ := eq_frameIndex (by simp only; omega)
    have hword : hostRead k s = s.frame.readWord (k.toNat - 16) := by rw [hk, hostRead_frameIndex, ← hk]
    rw [hword, readWord_toNat]

end Sys2Proof.Proofs.Registers

/-! PROOF. What a host write, a command, a turn and a step can do, said once for the statements on the whole machine. -/

namespace Sys2Proof.Machine

/-! ## A command -/

theorem exec_pending {i : Instr} {s t : State} (h : exec i s = .next t) : t.pending = none := by
  rcases exec_next h with ⟨-, rfl⟩ | ⟨-, rfl⟩ <;> rfl

theorem exec_script {i : Instr} {s t : State} (h : exec i s = .next t) : t.script = s.script := by
  rcases exec_next h with ⟨-, rfl⟩ | ⟨-, rfl⟩
  · rfl
  · rw [complete_script, resultWrites_script]

theorem exec_params {i : Instr} {s t : State} (h : exec i s = .next t) : t.params = s.params := by
  rcases exec_next h with ⟨-, rfl⟩ | ⟨-, rfl⟩
  · rfl
  · rw [complete_params, resultWrites_params]

/-- The one fault a command records is BOUNDS. -/
theorem exec_faultCause {i : Instr} {s t : State} (h : exec i s = .next t) :
    t.faultCause = .bounds ∨ t.faultCause = s.faultCause := by
  rcases exec_next h with ⟨-, rfl⟩ | ⟨-, rfl⟩
  · exact .inl rfl
  · exact .inr (by rw [complete_faultCause, resultWrites_faultCause])

theorem exec_answers (i : Instr) (s : State) : ∃ t, exec i s = .next t := by
  rcases exec_cases i s with ⟨h, -⟩ | ⟨_, _, _, _, _, h⟩ <;> exact ⟨_, h⟩

/-! ## A host write (R68) -/

/-- FLEN stands at one word index only (R63). -/
theorem eq_flenIndex_of_regAt {k : WordIndex} (h : regAt k = .flen) : k = flenIndex := by
  revert k
  decide

/-- The ends of a host write: it changes nothing, overruns, presents a word to `CMD`, or writes a frozen register of an
idle block. -/
inductive WriteEnds (k : WordIndex) (v : Word) (s : State) : State → Prop where
  | ignored : WriteEnds k v s s
  | overruns (hf : s.faulted = false) (hp : s.pending ≠ none) (hk : Spec.Frozen k) :
      WriteEnds k v s (raiseFault .overrun (byteAddr k) s)
  | accepts {i : Instr} (hs : Spec.Idle s) (hk : k = cmdIndex) (hd : decode v = .legal i) :
      WriteEnds k v s (setPending v s)
  | rejects {why : IllegalWord} (hs : Spec.Idle s) (hk : k = cmdIndex) (hd : decode v = .illegal why) :
      WriteEnds k v s (raiseFault .illegal v s)
  | setsFlen (hs : Spec.Idle s) (hk : k = flenIndex) : WriteEnds k v s (setFlen (v.setWidth 16) s)
  | setsFrame {j : Fin 8} (hs : Spec.Idle s) (hk : k = frameIndex j) : WriteEnds k v s (setFrameWord j v s)

theorem writeReg_ends {s : State} (hs : Spec.Idle s) (k : WordIndex) (v : Word) : WriteEnds k v s (writeReg k v s) := by
  rcases writeReg_cases k v s with ⟨hk, hw⟩ | ⟨hk, hw⟩ | ⟨j, hk, hw⟩ | ⟨-, hw⟩
  · rcases accept_cases v s with ⟨i, hd, ha⟩ | ⟨why, hd, ha⟩
    · rw [hw, ha]
      exact .accepts hs (eq_cmdIndex_of_regAt hk) hd
    · rw [hw, ha]
      exact .rejects hs (eq_cmdIndex_of_regAt hk) hd
  · rw [hw]
    exact .setsFlen hs (eq_flenIndex_of_regAt hk)
  · rw [hw]
    exact .setsFrame hs (regAt_frame hk)
  · rw [hw]
    exact .ignored

theorem hostWrite_ends (k : WordIndex) (v : Word) (s : State) : WriteEnds k v s (hostWrite k v s) := by
  by_cases hk : Spec.Frozen k
  case neg =>
    rw [hostWrite_of_not_frozen hk]
    exact .ignored
  cases hf : s.faulted with
  | true =>
    rw [hostWrite_of_faulted hf]
    exact .ignored
  | false =>
    by_cases hp : s.pending = none
    · rw [hostWrite_of_idle ⟨hf, hp⟩]
      exact writeReg_ends ⟨hf, hp⟩ k v
    · rw [hostWrite_of_frozen hf hp hk, ← byteAddr_eq, ← raiseFault_eq_afterFault]
      exact .overruns hf hp hk

theorem WriteEnds.script_eq {k : WordIndex} {v : Word} {s t : State} (h : WriteEnds k v s t) : t.script = s.script := by
  cases h <;> rfl

theorem WriteEnds.params_eq {k : WordIndex} {v : Word} {s t : State} (h : WriteEnds k v s t) : t.params = s.params := by
  cases h <;> rfl

/-! ## A poll of WAIT (R102) -/

theorem step_wait_of_busy {s : State} {rest : List Event} (hs : s.script = .wait :: rest) (hb : busy s = true) :
    step s = .next { s with
      script := .engine :: .wait :: rest, reads := ⟨statusIndex, hostRead statusIndex s⟩ :: s.reads } := by
  have hbit : (hostRead statusIndex (setScript rest s)).getLsbD 8 = true := (statusWord_getLsbD_busy _).trans hb
  rw [step_of_script hs, takeTurn, waitTurn, if_pos hbit]
  rfl

theorem step_wait_of_not_busy {s : State} {rest : List Event} (hs : s.script = .wait :: rest) (hb : busy s = false) :
    step s = .next { s with script := rest, reads := ⟨statusIndex, hostRead statusIndex s⟩ :: s.reads } := by
  have hbit : ¬ (hostRead statusIndex (setScript rest s)).getLsbD 8 = true := by
    rw [show (hostRead statusIndex (setScript rest s)).getLsbD 8 = false from (statusWord_getLsbD_busy _).trans hb]
    exact Bool.false_ne_true
  rw [step_of_script hs, takeTurn, waitTurn, if_neg hbit]
  rfl

/-! ## A step -/

theorem engineStep_next {s t : State} (h : engineStep s = .next t) :
    t = s ∨ ∃ w i, s.faulted = false ∧ s.pending = some w ∧ decode w = .legal i ∧ exec i s = .next t := by
  rcases engineStep_cases s with ⟨-, hidle⟩ | ⟨w, hf, hp, ⟨i, hd, hrun⟩ | ⟨why, -, hrefused⟩⟩
  · exact .inl (Host.Outcome.next.inj (h.symm.trans hidle))
  · exact .inr ⟨w, i, hf, hp, hd, hrun.symm.trans h⟩
  · cases h.symm.trans hrefused

/-- The ends of a step: the block is only looked at, takes a write, runs a command, or is reset. -/
inductive StepEnds (s t : State) : Prop where
  | observes (ht : t = { s with script := t.script, reads := t.reads })
  | writes {k : WordIndex} {v : Word} {rest : List Event} (hs : s.script = .write k v :: rest)
      (ht : WriteEnds k v (setScript rest s) t)
  | runs {rest : List Event} {w : Word} {i : Instr} (hs : s.script = [] ∨ s.script = .engine :: rest)
      (hf : s.faulted = false) (hp : s.pending = some w) (hd : decode w = .legal i)
      (hx : exec i (setScript rest s) = .next t)
  | resets {rest : List Event} (hs : s.script = .reset :: rest) (ht : t = resetBlock (setScript rest s))

theorem quietStep_ends {s t : State} (hs : s.script = []) (h : quietStep s = .next t) : StepEnds s t := by
  cases hf : s.faulted with
  | true => cases h.symm.trans (quietStep_of_faulted hf)
  | false =>
    rcases engineStep_next ((quietStep_of_not_faulted hf).symm.trans h) with rfl | ⟨w, i, -, hp, hd, hx⟩
    · exact .observes rfl
    · have hself : setScript s.script s = s := rfl
      exact .runs (.inl hs) hf hp hd (hself.symm ▸ hx)

theorem step_ends {s t : State} (h : step s = .next t) : StepEnds s t := by
  rcases step_cases s with ⟨hs, hquiet⟩ | ⟨e, rest, hs, hturn⟩
  · exact quietStep_ends hs (hquiet.symm.trans h)
  · cases e with
    | read k =>
      obtain rfl := Host.Outcome.next.inj ((step_read hs).symm.trans h)
      exact .observes rfl
    | write k v =>
      obtain rfl := Host.Outcome.next.inj ((step_write hs).symm.trans h)
      exact .writes hs (hostWrite_ends k v _)
    | wait =>
      cases hb : busy s with
      | true =>
        obtain rfl := Host.Outcome.next.inj ((step_wait_of_busy hs hb).symm.trans h)
        exact .observes rfl
      | false =>
        obtain rfl := Host.Outcome.next.inj ((step_wait_of_not_busy hs hb).symm.trans h)
        exact .observes rfl
    | engine =>
      rcases engineStep_next (hturn.symm.trans h) with rfl | ⟨w, i, hf, hp, hd, hx⟩
      · exact .observes rfl
      · exact .runs (.inr hs) hf hp hd hx
    | reset => exact .resets hs (Host.Outcome.next.inj (hturn.symm.trans h)).symm

/-- A step takes the next turn off the script, but for a poll that reads BUSY 1. -/
theorem step_takes_turn {s t : State} {e : Event} {rest : List Event} (hs : s.script = e :: rest)
    (hpoll : ¬ (e = .wait ∧ busy s = true)) (h : step s = .next t) : t.script = rest := by
  have hturn := (step_of_script hs).symm.trans h
  cases e with
  | read k =>
    obtain rfl := Host.Outcome.next.inj hturn
    rfl
  | write k v =>
    obtain rfl := Host.Outcome.next.inj hturn
    exact (hostWrite_ends k v _).script_eq
  | wait =>
    have hb : busy s = false := Bool.eq_false_iff.mpr fun hb => hpoll ⟨rfl, hb⟩
    obtain rfl := Host.Outcome.next.inj ((step_wait_of_not_busy hs hb).symm.trans h)
    rfl
  | engine =>
    rcases engineStep_next hturn with rfl | ⟨_, _, _, _, _, hx⟩
    · rfl
    · exact exec_script hx
  | reset =>
    obtain rfl := Host.Outcome.next.inj hturn
    rfl

/-! ## A run -/

theorem run_add {k : Nat} {s t : State} (h : Spec.run k s = .next t) (n : Nat) :
    Spec.run (k + n) s = Spec.run n t := by
  induction k generalizing s with
  | zero => rw [Nat.zero_add, Host.Outcome.next.inj h]
  | succ k ih =>
    rw [Nat.add_right_comm, Spec.run]
    rw [Spec.run] at h
    split at h
    case h_1 => exact ih h
    all_goals cases h

/-- What every step keeps, every run keeps. -/
theorem run_keeps {P : State → Prop} (hstep : ∀ s t, P s → step s = .next t → P t) {n : Nat} {s t : State} (hs : P s)
    (h : Spec.run n s = .next t) : P t := by
  induction n generalizing s with
  | zero => exact Host.Outcome.next.inj h ▸ hs
  | succ n ih =>
    rw [Spec.run] at h
    split at h
    case h_1 u hu => exact ih (hstep s u hs hu) h
    all_goals cases h

end Sys2Proof.Machine

/-! PROOF. The invariant of every reachable state, part by part: what may be pending, what a fault records, and what HDR
may hold; then every end of a step keeps it. -/

namespace Sys2Proof.Machine

/-! ## The parts of the invariant -/

theorem pendingLegal_iff (s : State) :
    pendingLegal s = true ↔ ∀ w, s.pending = some w → s.faulted = false ∧ ∃ i, decode w = .legal i := by
  unfold pendingLegal
  cases s.pending with
  | none => simp
  | some w => cases hd : decode w <;> simp [hd]

/-- The byte address of every frozen register is one an OVERRUN can record. -/
theorem overrunAddr_byteAddr {k : WordIndex} (hk : Spec.Frozen k) : overrunAddr (byteAddr k) = true := by
  rw [overrunAddr, List.any_eq_true]
  refine ⟨k.toNat, List.mem_range.mpr k.isLt, ?_⟩
  rw [BitVec.ofNat_toNat, BitVec.setWidth_eq, (frozenWhilePending_regAt_iff k).mpr hk, beq_self_eq_true]
  rfl

/-- A command that can leave the bounds is EXT, CRC or CHK, whose word BOUNDS records (R211). -/
theorem faultInfoFits_bounds {i : Instr} (hwf : i.wf = true) (hneeded : 0 < Spec.needed i) :
    faultInfoFits .bounds (encode i) = true := by
  rw [faultInfoFits, decode_encode hwf]
  cases i with
  | ext off cnt | crc start n | chk start n => rfl
  | nop | fval | parse => exact absurd hneeded (Nat.lt_irrefl 0)

theorem faultInfoFits_illegal {w : Word} {why : IllegalWord} (hd : decode w = .illegal why) :
    faultInfoFits .illegal w = true := by
  rw [faultInfoFits, hd]

/-- A frame with verdict OK passed the preamble and the classification match (R176). -/
theorem validatorVerdict_ok {s : State} {deeper : Verdict} (h : validatorVerdict s deeper = .ok) :
    knownPreamble s.params (preField s.frame) = true ∧ knownClassification s.params (rcField s.frame) = true := by
  unfold validatorVerdict at h
  split at h
  · cases h
  split at h
  · cases h
  split at h
  · cases h
  case isFalse hpre hrc => exact ⟨Bool.not_eq_false _ ▸ hpre, Bool.not_eq_false _ ▸ hrc⟩

theorem hdrOk_reportVerdict (s : State) (deeper : Verdict) :
    HdrOk (reportVerdict (validatorVerdict s deeper) s) := by
  by_cases hv : validatorVerdict s deeper = .ok
  · obtain ⟨hpre, hrc⟩ := validatorVerdict_ok hv
    refine .inr ?_
    rw [reportVerdict_hdr, if_pos hv]
    exact ⟨rfl, hpre, hrc, rfl⟩
  · exact .inl (by rw [reportVerdict_hdr, if_neg hv])

theorem hdrOk_resultWrites {i : Instr} {s : State} (h : HdrOk s) : HdrOk (resultWrites i s) := by
  cases i with
  | nop | ext off cnt | crc start n | chk start n => exact h
  | fval => exact hdrOk_reportVerdict s .ok
  | parse => exact hdrOk_reportVerdict s (gateVerdict s)

/-! ## The invariant -/

theorem faultRecordOk_reset : FaultRecordOk State.reset := by decide

theorem inv_reset {P : Params} (hP : P.WF) : Inv { State.reset with params := P } :=
  ⟨hP, reset_frame_wf, rfl, faultRecordOk_reset, .inl rfl, Nat.zero_le 5⟩

theorem inv_raiseFault {s : State} {c : FaultCause} {info : Word} (h : Inv s) (hc : c ≠ .none)
    (hinfo : faultInfoFits c info = true) : Inv (raiseFault c info s) := by
  obtain ⟨hparams, hframe, -, -, hhdr, hlastop⟩ := h
  exact ⟨hparams, hframe, rfl, ⟨⟨fun _ => hc, fun _ => rfl⟩, hinfo⟩, hhdr, hlastop⟩

theorem WriteEnds.inv {k : WordIndex} {v : Word} {s t : State} (hend : WriteEnds k v s t) (h : Inv s) : Inv t := by
  cases hend with
  | ignored => exact h
  | overruns _ _ hk => exact inv_raiseFault h (by decide) (overrunAddr_byteAddr hk)
  | rejects _ _ hd => exact inv_raiseFault h (by decide) (faultInfoFits_illegal hd)
  | accepts hs _ hd =>
    obtain ⟨hparams, hframe, -, hrest⟩ := h
    refine ⟨hparams, hframe, (pendingLegal_iff _).mpr fun w hw => ⟨hs.1, ?_⟩, hrest⟩
    obtain rfl := Option.some.inj hw
    exact ⟨_, hd⟩
  | setsFlen _ _ => exact h
  | setsFrame _ _ =>
    obtain ⟨hparams, hframe, hrest⟩ := h
    exact ⟨hparams, writeWord_wf hframe (Fin.isLt _), hrest⟩

theorem inv_exec {i : Instr} {s t : State} (hwf : i.wf = true) (hx : exec i s = .next t) (h : Inv s) : Inv t := by
  rcases exec_next hx with ⟨hlt, rfl⟩ | ⟨-, rfl⟩
  · exact inv_raiseFault h (by decide) (faultInfoFits_bounds hwf (Nat.zero_lt_of_lt hlt))
  · obtain ⟨hparams, hframe, -, hfault, hhdr, -⟩ := h
    have hfaultDone : FaultRecordOk (resultWrites i s) := by
      simpa only [FaultRecordOk, resultWrites_faulted, resultWrites_faultCause, resultWrites_faultInfo] using hfault
    exact ⟨(resultWrites_params i s).symm ▸ hparams, (resultWrites_frame i s).symm ▸ hframe, rfl, hfaultDone,
      hdrOk_resultWrites hhdr, opcode_toNat_le i⟩

theorem inv_step {s t : State} (h : Inv s) (hstep : step s = .next t) : Inv t := by
  cases step_ends hstep with
  | observes ht =>
    rw [ht]
    exact h
  | writes _ hend => exact hend.inv h
  | runs _ _ _ hd hx => exact inv_exec (legalWord_of_decode hd).wf hx h
  | resets _ ht =>
    rw [ht]
    exact inv_reset h.1

/-- What the invariant says of a pending word. -/
theorem inv_pending {s : State} {w : Word} (h : Inv s) (hp : s.pending = some w) :
    s.faulted = false ∧ ∃ i, decode w = .legal i := by
  obtain ⟨-, -, hlegal, -⟩ := h
  exact (pendingLegal_iff s).mp hlegal w hp

/-! ## No stop but that of a faulted block -/

theorem engineStep_answers {s : State} (h : pendingLegal s = true) : ∃ t, engineStep s = .next t := by
  rcases engineStep_cases s with ⟨-, hidle⟩ | ⟨w, -, hp, ⟨i, -, hrun⟩ | ⟨why, hd, -⟩⟩
  · exact ⟨s, hidle⟩
  · exact hrun ▸ exec_answers i s
  · obtain ⟨-, i, hlegal⟩ := (pendingLegal_iff s).mp h w hp
    cases hlegal.symm.trans hd

theorem takeTurn_answers (e : Event) {s : State} (h : pendingLegal s = true) : ∃ t, takeTurn e s = .next t := by
  cases e with
  | engine => exact engineStep_answers h
  | read k | write k v | wait | reset => exact ⟨_, rfl⟩

/-- A turn of the script is answered. -/
theorem step_answers {s : State} {e : Event} {rest : List Event} (h : Inv s) (hs : s.script = e :: rest) :
    ∃ t, step s = .next t := by
  obtain ⟨-, -, hlegal, -⟩ := h
  rw [step_of_script hs]
  exact takeTurn_answers e (s := setScript rest s) hlegal

end Sys2Proof.Machine

/-! PROOF. The obligations on the invariant. -/

namespace Sys2Proof.Proofs.Invariant

open Sys2Proof.Machine

/-- Settles O44: an empty frame, nothing pending, no fault and no header, under any parameters. -/
theorem invariantAtReset : Obligations.InvariantAtReset :=
  ⟨inv_reset (P := Params.default) (by decide), fun _ hP => inv_reset hP⟩

/-- Settles O45: by the ends of a step, a host write and a command part by part. -/
theorem stepKeepsTheInvariant : Obligations.StepKeepsTheInvariant :=
  fun _ _ h hstep => inv_step h hstep

/-- Settles O46: a turn is answered, and with no turn left the engine answers unless a fault is recorded. -/
theorem onlyAFaultedBlockStops : Obligations.OnlyAFaultedBlockStops := by
  intro s h
  rcases step_cases s with ⟨hs, hquiet⟩ | ⟨e, rest, hs, -⟩
  · cases hf : s.faulted with
    | true => exact .inr ⟨rfl, hs, hquiet.trans (quietStep_of_faulted hf)⟩
    | false =>
      obtain ⟨-, -, hlegal, -⟩ := h
      exact .inl (hquiet ▸ quietStep_of_not_faulted hf ▸ engineStep_answers hlegal)
  · exact .inl (step_answers h hs)

end Sys2Proof.Proofs.Invariant

/-! PROOF. The busy rule (R243): kept by every turn, and with it no OVERRUN. -/

namespace Sys2Proof.Machine

/-- Turns that keep the rule for a host that may be busy keep it for one that is not. -/
theorem keepsBusyRule_mono {b c : Bool} (hbc : b = true → c = true) {turns : List Event}
    (h : keepsBusyRule c turns = true) : keepsBusyRule b turns = true := by
  induction turns generalizing b c with
  | nil => rfl
  | cons e rest ih =>
    cases e with
    | read k => exact ih hbc h
    | engine => exact ih hbc h
    | wait => exact h
    | reset => exact h
    | write k v =>
      rw [keepsBusyRule, Bool.and_eq_true, Bool.not_eq_true', Bool.and_eq_false_iff] at h ⊢
      obtain ⟨hfree, hrest⟩ := h
      have hor : (b || regAt k == .cmd) = true → (c || regAt k == .cmd) = true := by
        rw [Bool.or_eq_true, Bool.or_eq_true]
        exact Or.imp_left hbc
      exact ⟨hfree.imp_left fun hc => Bool.eq_false_iff.mpr fun hb => Bool.eq_false_iff.mp hc (hbc hb), ih hor hrest⟩

/-- The rule at a write: no frozen register while a command may be pending, and the rule for what comes after. -/
theorem keepsBusyRule_write {b : Bool} {k : WordIndex} {v : Word} {rest : List Event}
    (h : keepsBusyRule b (.write k v :: rest) = true) :
    (b = true → ¬ Spec.Frozen k) ∧ keepsBusyRule (b || regAt k == .cmd) rest = true := by
  rw [keepsBusyRule, Bool.and_eq_true, Bool.not_eq_true', Bool.and_eq_false_iff] at h
  obtain ⟨hfree, hrest⟩ := h
  refine ⟨fun hb hk => ?_, hrest⟩
  rw [hb, (frozenWhilePending_regAt_iff k).mpr hk] at hfree
  cases hfree <;> contradiction

/-- Turns to come that keep the busy rule, in a block without an OVERRUN. -/
def KeepsBusyRule (s : State) : Prop := keepsBusyRule s.pending.isSome s.script = true ∧ s.faultCause ≠ .overrun

theorem WriteEnds.busyRule {k : WordIndex} {v : Word} {s t : State} (hend : WriteEnds k v s t)
    (hrule : keepsBusyRule s.pending.isSome (.write k v :: s.script) = true) (hcause : s.faultCause ≠ .overrun) :
    KeepsBusyRule t := by
  obtain ⟨hfree, hrest⟩ := keepsBusyRule_write hrule
  have hsame : keepsBusyRule s.pending.isSome s.script = true :=
    keepsBusyRule_mono (fun hb => by rw [hb]; rfl) hrest
  cases hend with
  | ignored => exact ⟨hsame, hcause⟩
  | overruns _ hp hk => exact absurd hk (hfree (Option.isSome_iff_ne_none.mpr hp))
  | accepts _ hk _ =>
    have hcmd : (s.pending.isSome || regAt k == .cmd) = true := by rw [hk, Bool.or_eq_true]; exact .inr rfl
    rw [hcmd] at hrest
    exact ⟨hrest, hcause⟩
  | rejects _ _ _ => exact ⟨keepsBusyRule_mono (fun hb => by cases hb) hrest, by rw [raiseFault_faultCause]; decide⟩
  | setsFlen _ _ => exact ⟨hsame, hcause⟩
  | setsFrame _ _ => exact ⟨hsame, hcause⟩

theorem engineStep_keepsBusyRule {s t : State} (hs : KeepsBusyRule s) (h : engineStep s = .next t) :
    KeepsBusyRule t := by
  rcases engineStep_next h with rfl | ⟨_, _, _, _, _, hx⟩
  · exact hs
  · obtain ⟨hrule, hcause⟩ := hs
    refine ⟨?_, ?_⟩
    · rw [exec_pending hx, exec_script hx]
      exact keepsBusyRule_mono (fun hb => by cases hb) hrule
    · rcases exec_faultCause hx with hc | hc
      · rw [hc]; decide
      · rw [hc]; exact hcause

theorem step_keepsBusyRule {s t : State} (hs : KeepsBusyRule s) (h : step s = .next t) : KeepsBusyRule t := by
  obtain ⟨hrule, hcause⟩ := hs
  rcases step_cases s with ⟨-, hquiet⟩ | ⟨e, rest, hscript, hturn⟩
  · cases hf : s.faulted with
    | true => cases h.symm.trans (hquiet.trans (quietStep_of_faulted hf))
    | false =>
      have hengine : step s = engineStep s := hquiet.trans (quietStep_of_not_faulted hf)
      exact engineStep_keepsBusyRule ⟨hrule, hcause⟩ (hengine.symm.trans h)
  · rw [hscript] at hrule
    cases e with
    | read k =>
      obtain rfl := Host.Outcome.next.inj ((step_read hscript).symm.trans h)
      exact ⟨hrule, hcause⟩
    | write k v =>
      obtain rfl := Host.Outcome.next.inj ((step_write hscript).symm.trans h)
      exact (hostWrite_ends k v (setScript rest s)).busyRule hrule hcause
    | wait =>
      cases hb : busy s with
      | true =>
        obtain rfl := Host.Outcome.next.inj ((step_wait_of_busy hscript hb).symm.trans h)
        exact ⟨hrule, hcause⟩
      | false =>
        obtain rfl := Host.Outcome.next.inj ((step_wait_of_not_busy hscript hb).symm.trans h)
        have hidle : s.pending.isSome = false := hb
        exact ⟨hidle ▸ hrule, hcause⟩
    | engine => exact engineStep_keepsBusyRule (s := setScript rest s) ⟨hrule, hcause⟩ (hturn.symm.trans h)
    | reset =>
      obtain rfl := Host.Outcome.next.inj (hturn.symm.trans h)
      exact ⟨hrule, by rw [resetBlock_faultCause]; decide⟩

/-! ## A host that has read BUSY 0 -/

/-- Nothing pending, and no OVERRUN recorded. -/
def NotBusy (s : State) : Prop := busy s = false ∧ s.faultCause ≠ .overrun

/-- A write while nothing is pending records no OVERRUN, to `CMD` too. -/
theorem WriteEnds.no_overrun {k : WordIndex} {v : Word} {s t : State} (hend : WriteEnds k v s t) (hs : NotBusy s) :
    t.faultCause ≠ .overrun := by
  obtain ⟨hb, hcause⟩ := hs
  cases hend with
  | overruns _ hp _ => exact absurd (Option.isSome_iff_ne_none.mpr hp) (Bool.eq_false_iff.mp hb)
  | rejects _ _ _ => rw [raiseFault_faultCause]; decide
  | ignored | accepts _ _ _ | setsFlen _ _ | setsFrame _ _ => exact hcause

/-- A write elsewhere than to `CMD` leaves nothing pending. -/
theorem WriteEnds.not_busy {k : WordIndex} {v : Word} {s t : State} (hend : WriteEnds k v s t) (hs : NotBusy s)
    (hk : k ≠ cmdIndex) : NotBusy t := by
  refine ⟨?_, hend.no_overrun hs⟩
  cases hend with
  | accepts _ hcmd _ => exact absurd hcmd hk
  | overruns _ _ _ | rejects _ _ _ => rfl
  | ignored | setsFlen _ _ | setsFrame _ _ => exact hs.1

/-- With nothing pending, any turn but a write to `CMD` is answered and leaves nothing pending. -/
theorem step_not_busy {s : State} {e : Event} {rest : List Event} (hs : NotBusy s) (hscript : s.script = e :: rest)
    (he : ∀ k v, e = .write k v → k ≠ cmdIndex) : ∃ t, step s = .next t ∧ t.script = rest ∧ NotBusy t := by
  cases e with
  | read k => exact ⟨_, step_read hscript, rfl, hs⟩
  | write k v =>
    have hend := hostWrite_ends k v (setScript rest s)
    exact ⟨_, step_write hscript, hend.script_eq, hend.not_busy hs (he k v rfl)⟩
  | wait => exact ⟨_, step_wait_of_not_busy hscript hs.1, rfl, hs⟩
  | engine =>
    have hp : s.pending = none := Option.not_isSome_iff_eq_none.mp (Bool.eq_false_iff.mp hs.1)
    exact ⟨_, (step_of_script hscript).trans (engineStep_of_not_enabled (s := setScript rest s) (.inl hp)), rfl, hs⟩
  | reset => exact ⟨_, step_of_script hscript, rfl, rfl, by rw [resetBlock_faultCause]; decide⟩

theorem run_not_busy {s : State} {turns rest : List Event} (hs : NotBusy s) (hscript : s.script = turns ++ rest)
    (hturns : ∀ k v, Event.write k v ∈ turns → k ≠ cmdIndex) :
    ∃ t, Spec.run turns.length s = .next t ∧ t.script = rest ∧ NotBusy t := by
  induction turns generalizing s with
  | nil => exact ⟨s, rfl, hscript, hs⟩
  | cons e turns ih =>
    obtain ⟨u, hstep, hu, hnext⟩ := step_not_busy hs hscript fun k v he => hturns k v (he ▸ List.mem_cons_self)
    obtain ⟨t, hrun, ht⟩ := ih hnext hu fun k v he => hturns k v (List.mem_cons_of_mem _ he)
    exact ⟨t, (run_succ hstep _).trans hrun, ht⟩

end Sys2Proof.Machine

/-! PROOF. The obligations on the busy rule, of 70_reset_and_hazards.md section 3. -/

namespace Sys2Proof.Proofs.BusyRule

open Sys2Proof.Machine

/-- Settles O59: a write the rule allows overruns nothing, a poll that ends has seen BUSY 0, and a command only ends
what is pending. -/
theorem busyRuleIsKeptByEveryStep : Obligations.BusyRuleIsKeptByEveryStep :=
  fun _ _ hrule hcause h => step_keepsBusyRule ⟨hrule, hcause⟩ h

/-- Settles O55: every step keeps the rule, so every run does. -/
theorem disciplinedProgramsNeverOverrun : Obligations.DisciplinedProgramsNeverOverrun :=
  fun _ _ _ hrule hcause h => (run_keeps (fun _ _ => step_keepsBusyRule) ⟨hrule, hcause⟩ h).2

/-- Settles O60: by induction on the turns up to the write to `CMD`. -/
theorem writesAfterBusyReadsZeroNeverOverrun : Obligations.WritesAfterBusyReadsZeroNeverOverrun := by
  intro s turns rest hbit hcause hscript hturns
  have hb : busy s = false := (statusWord_getLsbD_busy s).symm.trans hbit
  obtain ⟨t, hrun, ht, hnext⟩ := run_not_busy ⟨hb, hcause⟩ hscript hturns
  refine ⟨t, hrun, ht, hnext.2, (statusWord_getLsbD_busy t).trans hnext.1, fun k v later u hrest hstep => ?_⟩
  obtain rfl := Host.Outcome.next.inj ((step_write (ht.trans hrest)).symm.trans hstep)
  exact (hostWrite_ends k v _).no_overrun hnext

end Sys2Proof.Proofs.BusyRule

/-! PROOF. What steps and runs change: a faulted block under any turn but the reset input, who writes the input and the
result registers, how many steps a script takes, and what the eight writes of LOADFRAME leave. -/

namespace Sys2Proof.Machine

/-! ## A faulted block (R215) -/

/-- The block of `u` is that of `s`, and no reset input is to come. -/
def SameBlockWithoutReset (s u : State) : Prop :=
  .reset ∉ u.script ∧ ∃ turns notes, u = { s with script := turns, reads := notes }

/-- No turn but the reset input leaves the fault. -/
theorem step_of_faulted {s t u : State} (hf : s.faulted = true) (hsame : SameBlockWithoutReset s t)
    (hstep : step t = .next u) : SameBlockWithoutReset s u := by
  obtain ⟨hreset, turns, notes, ht⟩ := hsame
  have hft : t.faulted = true := by rw [ht]; exact hf
  have hu := (Proofs.HostPort.faultedBlockIgnoresWrites t hft).1 u hstep fun _ hs => hreset (hs ▸ List.mem_cons_self)
  refine ⟨?_, u.script, u.reads, hu.trans (by rw [ht])⟩
  rcases step_cases t with ⟨-, hquiet⟩ | ⟨e, rest, hs, -⟩
  · cases hstep.symm.trans (hquiet.trans (quietStep_of_faulted hft))
  · rw [hs] at hreset
    have hrest : .reset ∉ rest := fun h => hreset (List.mem_cons_of_mem _ h)
    by_cases hpoll : e = .wait ∧ busy t = true
    · obtain ⟨rfl, hb⟩ := hpoll
      rw [Host.Outcome.next.inj (hstep.symm.trans (step_wait_of_busy hs hb))]
      simpa using hrest
    · rw [step_takes_turn hs hpoll hstep]
      exact hrest

/-! ## The input registers (R23, R24, R69) -/

/-- What changes FRAME or FLEN is a write to its own words in an idle block. -/
theorem WriteEnds.input {k : WordIndex} {v : Word} {s t : State} (h : WriteEnds k v s t) :
    (t.frame ≠ s.frame → Spec.Idle s ∧ ∃ j, k = frameIndex j) ∧ (t.flen ≠ s.flen → Spec.Idle s ∧ k = flenIndex) := by
  cases h with
  | setsFlen hs hk => exact ⟨fun h => absurd rfl h, fun _ => ⟨hs, hk⟩⟩
  | setsFrame hs hk => exact ⟨fun _ => ⟨hs, _, hk⟩, fun h => absurd rfl h⟩
  | ignored | overruns _ _ _ | accepts _ _ _ | rejects _ _ _ => exact ⟨fun h => absurd rfl h, fun h => absurd rfl h⟩

/-- A write that leaves a pending command pending changes nothing. -/
theorem WriteEnds.eq_of_pending {k : WordIndex} {v w : Word} {s t : State} (h : WriteEnds k v s t)
    (hs : s.pending = some w) (ht : t.pending ≠ none) : t = s := by
  have hbusy (hidle : Spec.Idle s) : t = s := by cases hs.symm.trans hidle.2
  cases h with
  | ignored => rfl
  | overruns _ _ _ => exact absurd rfl ht
  | accepts hidle _ _ | rejects hidle _ _ | setsFlen hidle _ | setsFrame hidle _ => exact hbusy hidle

/-! ## The result registers (R26, R29 to R32) -/

/-- The registers that only commands write are as they were. -/
def SameResults (s t : State) : Prop :=
  t.result = s.result ∧ t.crcCalc = s.crcCalc ∧ t.crcRecv = s.crcRecv ∧ t.hdr = s.hdr ∧ t.verdict = s.verdict ∧
    t.lastop = s.lastop

theorem WriteEnds.sameResults {k : WordIndex} {v : Word} {s t : State} (h : WriteEnds k v s t) : SameResults s t := by
  cases h <;> exact ⟨rfl, rfl, rfl, rfl, rfl, rfl⟩

/-- A step but for the reset input writes no result, or runs a command that answers its state. -/
theorem step_results {s t : State} (h : step s = .next t) (hreset : ∀ rest, s.script ≠ .reset :: rest) :
    SameResults s t ∨
      ∃ i rest, (∀ p : Instr → Bool, p i = true → Spec.Runs s p) ∧ exec i (setScript rest s) = .next t := by
  cases step_ends h with
  | observes ht =>
    rw [ht]
    exact .inl ⟨rfl, rfl, rfl, rfl, rfl, rfl⟩
  | writes _ hend => exact .inl hend.sameResults
  | @runs rest w i hs hf hp hd hx =>
    exact .inr ⟨i, rest, fun p hpi => ⟨hs.imp_right fun hs => ⟨rest, hs⟩, hf, w, i, hp, hd, hpi⟩, hx⟩
  | resets hs _ => exact absurd hs (hreset _)

theorem step_params {s t : State} (h : step s = .next t) : t.params = s.params := by
  cases step_ends h with
  | observes ht => rw [ht]
  | writes _ hend => exact hend.params_eq
  | runs _ _ _ _ hx => exact (exec_params hx).trans rfl
  | resets _ ht => rw [ht, resetBlock_params, setScript_params]

/-! ## How many steps a script takes -/

/-- A `WAIT` with a command pending takes three steps: a poll that reads BUSY 1, the engine's turn, and a poll that
reads BUSY 0. -/
theorem run_wait_of_busy {s t : State} {rest : List Event} {w : Word} {i : Instr} (hs : s.script = .wait :: rest)
    (hf : s.faulted = false) (hp : s.pending = some w) (hd : decode w = .legal i)
    (hx : exec i { s with script := rest } = .next t) :
    Spec.run 3 s = .next { t with
      reads := ⟨statusIndex, hostRead statusIndex t⟩ :: ⟨statusIndex, hostRead statusIndex s⟩ :: s.reads } := by
  have hb : busy s = true := by rw [busy, hp]; rfl
  have hdone : busy t = false := by rw [busy, exec_pending hx]; rfl
  obtain rfl : t.script = rest := exec_script hx
  have hpoll := step_wait_of_busy hs hb
  have hengine := Proofs.Engine.stepRunsTheDecodedCommand { s with
    script := .engine :: .wait :: t.script, reads := ⟨statusIndex, hostRead statusIndex s⟩ :: s.reads } w i hf hp hd
  have hrun := (hengine.1 _ rfl).trans (exec_of_turns hx _ _)
  have hend := step_wait_of_not_busy (s := { t with
    script := .wait :: t.script, reads := ⟨statusIndex, hostRead statusIndex s⟩ :: s.reads }) rfl hdone
  exact (run_succ hpoll 2).trans ((run_succ hrun 1).trans (run_succ hend 0))

/-- One turn of the script takes at most three steps. -/
theorem run_takes_turn {s : State} {e : Event} {rest : List Event} (h : Inv s) (hs : s.script = e :: rest) :
    ∃ k t, k ≤ 3 ∧ Spec.run k s = .next t ∧ t.script = rest ∧ Inv t := by
  by_cases hpoll : e = .wait ∧ busy s = true
  · obtain ⟨rfl, hb⟩ := hpoll
    obtain ⟨w, hp⟩ := Option.isSome_iff_exists.mp hb
    obtain ⟨hf, i, hd⟩ := inv_pending h hp
    obtain ⟨t, hx⟩ := exec_answers i { s with script := rest }
    have hrun := run_wait_of_busy hs hf hp hd hx
    exact ⟨3, _, Nat.le_refl 3, hrun, exec_script hx, run_keeps (fun _ _ => inv_step) h hrun⟩
  · obtain ⟨t, hstep⟩ := step_answers h hs
    exact ⟨1, t, by decide, run_succ hstep 0, step_takes_turn hs hpoll hstep, inv_step h hstep⟩

/-- With no turn left, the engine's fair turn ends what is pending (R72). -/
theorem run_of_no_turn {s : State} (h : Inv s) (hs : s.script = []) :
    ∃ n t, n ≤ 1 ∧ Spec.run n s = .next t ∧ t.script = [] ∧ t.pending = none := by
  cases hp : s.pending with
  | none => exact ⟨0, s, Nat.zero_le 1, rfl, hs, hp⟩
  | some w =>
    obtain ⟨hf, i, hd⟩ := inv_pending h hp
    obtain ⟨t, hx⟩ := exec_answers i s
    have hstep := ((Proofs.Engine.stepRunsTheDecodedCommand s w i hf hp hd).2 hs).trans hx
    exact ⟨1, t, Nat.le_refl 1, run_succ hstep 0, (exec_script hx).trans hs, exec_pending hx⟩

theorem run_takes_script {s : State} (h : Inv s) :
    ∃ n t, n ≤ 3 * s.script.length + 1 ∧ Spec.run n s = .next t ∧ t.script = [] ∧ t.pending = none := by
  induction hs : s.script generalizing s with
  | nil => exact run_of_no_turn h hs
  | cons e rest ih =>
    obtain ⟨k, u, hk, hrun, hrest, hu⟩ := run_takes_turn h hs
    obtain ⟨n, t, hn, hrun', ht⟩ := ih hu hrest
    refine ⟨k + n, t, ?_, (run_add hrun n).trans hrun', ht⟩
    rw [List.length_cons]
    omega

/-! ## LOADFRAME (R64, R102) -/

/-- The four bytes of a word, each cut out of its lane. -/
theorem lanes_append (b₀ b₁ b₂ b₃ : Byte) :
    (b₀ ++ b₁ ++ b₂ ++ b₃).extractLsb' 24 8 = b₀ ∧ (b₀ ++ b₁ ++ b₂ ++ b₃).extractLsb' 16 8 = b₁ ∧
      (b₀ ++ b₁ ++ b₂ ++ b₃).extractLsb' 8 8 = b₂ ∧ (b₀ ++ b₁ ++ b₂ ++ b₃).extractLsb' 0 8 = b₃ := by
  simp only [← BitVec.toNat_inj, field_toNat, append_toNat]
  omega

/-- The word LOADFRAME writes to `FRAMEj` puts bytes `4 j` to `4 j + 3` in their places. -/
theorem read_writeWord_loadWord {m : Memory} (hm : m.wf) (x : Vector Byte 32) (j : Fin 8) {a : Nat} (ha : a < 32) :
    (m.writeWord j.val (loadWord x j)).read a = if a / 4 = j.val then x[a] else m.read a := by
  obtain ⟨h0, h1, h2, h3⟩ := lanes_append x[4 * j.val] x[4 * j.val + 1] x[4 * j.val + 2] x[4 * j.val + 3]
  by_cases haj : a / 4 = j.val
  · rw [if_pos haj]
    obtain rfl | rfl | rfl | rfl : a = 4 * j.val ∨ a = 4 * j.val + 1 ∨ a = 4 * j.val + 2 ∨ a = 4 * j.val + 3 := by omega
    · rw [read_writeWord_lane0 hm, loadWord, h0]
    · rw [read_writeWord_lane1 hm, loadWord, h1]
    · rw [read_writeWord_lane2 hm, loadWord, h2]
    · rw [read_writeWord_lane3 hm, loadWord, h3]
  · rw [if_neg haj, read_writeWord_outside hm _ _ (by omega)]

/-- Any part of LOADFRAME's writes: its words hold the bytes given, the others are as they were. -/
theorem run_loadWords (x : Vector Byte 32) {s : State} {rest : List Event} {js : List (Fin 8)} (hidle : Spec.Idle s)
    (hm : s.frame.wf) (hs : s.script = (js.map fun j => .write (frameIndex j) (loadWord x j)) ++ rest) :
    ∃ m, Spec.run js.length s = .next { s with script := rest, frame := m } ∧
      ∀ (a : Nat) (_ : a < 32), m.read a = if ∃ j ∈ js, a / 4 = j.val then x[a] else s.frame.read a := by
  induction js generalizing s with
  | nil =>
    obtain rfl : s.script = rest := hs
    exact ⟨s.frame, rfl, fun a _ => by simp⟩
  | cons j js ih =>
    rw [List.map_cons, List.cons_append] at hs
    generalize hturns : _ ++ rest = turns at hs
    have hstep := step_write hs
    rw [hostWrite_of_idle (s := setScript turns s) hidle, writeReg_frameIndex] at hstep
    obtain ⟨m, hrun, hread⟩ := ih (s := setFrameWord j (loadWord x j) (setScript turns s)) hidle
      (writeWord_wf hm j.isLt) hturns.symm
    refine ⟨m, (run_succ hstep _).trans hrun, fun a ha => ?_⟩
    rw [hread a ha, setFrameWord_frame, setScript_frame, read_writeWord_loadWord hm x j ha]
    by_cases hj : a / 4 = j.val <;> simp [hj]

end Sys2Proof.Machine

/-! PROOF. The obligations on the steps and runs of the whole machine. -/

namespace Sys2Proof.Proofs.WholeMachine

open Sys2Proof.Machine

/-- Settles O8: the reset state but for parameters, turns and notes, which no word of the host port shows. -/
theorem resetInputRestoresEveryRegister : Obligations.ResetInputRestoresEveryRegister :=
  fun _ _ hs => ⟨_, step_of_script hs, rfl, hostRead_reset⟩

/-- Settles O48: a step of the block leaves it the same block with no reset input to come, so every run does. -/
theorem faultsAreFatalAndDoNotNest : Obligations.FaultsAreFatalAndDoNotNest := by
  refine ⟨fun n s t hf hreset hrun => ?_, fun s hf => ⟨fun ⟨_, _, hnot⟩ => ?_, fun hs => ?_⟩⟩
  · obtain ⟨-, _, _, rfl⟩ := run_keeps (fun _ _ => step_of_faulted hf) ⟨hreset, s.script, s.reads, rfl⟩ hrun
    rfl
  · cases hf.symm.trans hnot
  · rw [step, hs]
    exact quietStep_of_faulted hf

/-- Settles O49: no step changes the parameters, so no run does. -/
theorem parametersNeverChange : Obligations.ParametersNeverChange :=
  fun _ s _ hrun => run_keeps (P := fun u => u.params = s.params) (fun _ _ hu h => (step_params h).trans hu) rfl hrun

/-- Settles O50: of the ends of a step but reset, only a write reaches FRAME or FLEN. -/
theorem onlyTheHostWritesTheInputs : Obligations.OnlyTheHostWritesTheInputs := by
  intro s t h hreset
  cases step_ends h with
  | observes ht => exact ⟨fun hne => absurd (ht ▸ rfl) hne, fun hne => absurd (ht ▸ rfl) hne⟩
  | @writes k v rest hs hend =>
    obtain ⟨hframe, hflen⟩ := hend.input
    refine ⟨fun hne => ?_, fun hne => ?_⟩
    · obtain ⟨hidle, j, rfl⟩ := hframe hne
      exact ⟨hidle, j, v, rest, hs⟩
    · obtain ⟨hidle, rfl⟩ := hflen hne
      exact ⟨hidle, v, rest, hs⟩
  | runs _ _ _ _ hx =>
    obtain ⟨-, ⟨hframe, hflen, -⟩, -⟩ := Proofs.Engine.frameOfEveryCommand _ _ _ hx
    exact ⟨fun hne => absurd hframe hne, fun hne => absurd hflen hne⟩
  | resets hs _ => exact absurd hs (hreset _)

/-- Settles O51: a step that is no engine step writes no result, and a command leaves the results of the others. -/
theorem onlyTheirCommandsWriteResults : Obligations.OnlyTheirCommandsWriteResults := by
  intro s t h hreset
  rcases step_results h hreset with ⟨hr, hc, hv, hh, hverdict, hl⟩ | ⟨i, rest, hruns, hx⟩
  · exact ⟨absurd hr, absurd hc, absurd hv, absurd hh, absurd hverdict, absurd hl⟩
  · obtain ⟨-, -, hresult, hcalc, hrecv, hhdr, hverdict, -⟩ := Proofs.Engine.frameOfEveryCommand _ _ _ hx
    refine ⟨fun hne => hruns _ ?_, fun hne => hruns _ ?_, fun hne => hruns _ ?_, fun hne => hruns _ ?_,
      fun hne => hruns _ ?_, fun _ => hruns _ rfl⟩
    · cases i with
      | ext off cnt => rfl
      | _ => exact absurd (hresult nofun) hne
    · cases i with
      | crc a n | chk a n => rfl
      | _ => exact absurd (hcalc fun _ _ => ⟨nofun, nofun⟩) hne
    · cases i with
      | chk a n => rfl
      | _ => exact absurd (hrecv nofun) hne
    · cases i with
      | fval | parse => rfl
      | _ => exact absurd (hhdr nofun nofun) hne
    · cases i with
      | nop => exact absurd (hverdict rfl) hne
      | _ => rfl

/-- Settles O52: a write leaves a pending command pending only by changing nothing, and a command or reset leaves
nothing pending. -/
theorem pendingInputIsFrozen : Obligations.PendingInputIsFrozen := by
  intro s t w hp h ht
  cases step_ends h with
  | observes hobs =>
    rw [hobs]
    exact ⟨hp, rfl, rfl⟩
  | writes _ hend =>
    rw [hend.eq_of_pending hp ht]
    exact ⟨hp, rfl, rfl⟩
  | runs _ _ _ _ hx => exact absurd (exec_pending hx) ht
  | resets _ hr => exact absurd (hr ▸ rfl) ht

/-- Settles O53: by induction on the script, at most three steps a turn and one with no turn left. -/
theorem boundedRunLeavesNothingPending : Obligations.BoundedRunLeavesNothingPending :=
  fun _ h => run_takes_script h

/-- Settles O54: the write is accepted, and the WAIT takes three steps. -/
theorem issueAndWaitRunsTheCommand : Obligations.IssueAndWaitRunsTheCommand := by
  intro i s t rest hwf hidle hs hx
  have hd := decode_encode hwf
  obtain ⟨haccept, hbusy⟩ :=
    (Proofs.HostPort.acceptanceOfACommand (encode i) (setScript (.wait :: rest) s) hidle).1 i hd
  rw [haccept] at hbusy
  have hwrite := (step_write hs).trans (congrArg _ haccept)
  have hwait :=
    run_wait_of_busy (s := { s with pending := some (encode i), script := .wait :: rest }) rfl hidle.1 rfl hd hx
  have hdone : busy t = false := by rw [busy, exec_pending hx]; rfl
  exact ⟨_, _, hbusy, (statusWord_getLsbD_busy t).trans hdone, rfl, (run_succ hwrite 3).trans hwait⟩

/-- Settles O57: every byte of the frame lies in one of the eight words. -/
theorem loadframeLoadsTheFrame : Obligations.LoadframeLoadsTheFrame := by
  intro x s rest hidle hm hs
  obtain ⟨m, hrun, hread⟩ := run_loadWords x hidle hm hs
  refine ⟨_, hrun, rfl, fun a ha => ?_⟩
  have hword : a / 4 < 8 := by omega
  rw [hread a ha, if_pos ⟨⟨a / 4, hword⟩, List.mem_finRange _, rfl⟩]

end Sys2Proof.Proofs.WholeMachine

/-! PROOF. What the checksum detects (R148). The registers of two frames differ by a register of their own, fed with the
differing bits; a single bit keeps it alive, and an odd number of bits keeps its weight odd. -/

namespace Sys2Proof.Machine

/-! ## The register without input -/

theorem crcStep_false (poly R : BitVec 25) : crcStep poly R false = crcShift poly R := by
  rw [crcStep]
  exact congrArg (crcShift poly) BitVec.xor_zero

/-- Every bit after a division step: the bit below it, and the generator's where it is selected. -/
theorem crcShift_getLsbD (poly R : BitVec 25) {i : Nat} (hi : i < 25) :
    (crcShift poly R).getLsbD i = ((decide (1 ≤ i) && R.getLsbD (i - 1)) ^^ (R.getLsbD 23 && poly.getLsbD i)) := by
  have hge : (!decide (i < 1)) = decide (1 ≤ i) := by
    rw [← decide_not]
    exact decide_eq_decide.mpr Nat.not_lt
  rw [crcShift_eq, BitVec.getLsbD_xor, BitVec.getLsbD_shiftLeft, decide_eq_true hi, Bool.true_and, hge]
  cases R.getLsbD 23 <;> simp

theorem crcShift_zero (poly : BitVec 25) : crcShift poly 0#25 = 0#25 := by
  rw [crcShift_eq]
  simp

/-- A leading zero bit leaves the register at 0, as an empty range does. -/
theorem crcRegister_leading_zero (poly : BitVec 25) {m : Memory} {start : Nat} (h : frameBit m start = false)
    (n : Nat) :
    crcRegister poly m start (n + 1) = crcRegister poly m (start + 1) n := by
  rw [crcRegister, crcRegister, List.range'_succ, List.foldl_cons, h, crcStep_false, crcShift_zero]

theorem crcRegister_of_zero_bits (poly : BitVec 25) {m : Memory} {start n : Nat}
    (h : ∀ b, start ≤ b → b < start + n → frameBit m b = false) : crcRegister poly m start n = 0#25 := by
  induction n with
  | zero => exact crcRegister_zero poly m start
  | succ n ih =>
    rw [crcRegister_succ, ih fun b hlo hhi => h b hlo (by omega), h _ (by omega) (by omega), crcStep_false,
      crcShift_zero]

/-! ## The difference of two registers -/

theorem crcStep_xor (poly A B : BitVec 25) (a b : Bool) :
    crcStep poly A a ^^^ crcStep poly B b = crcStep poly (A ^^^ B) (a ^^ b) := by
  have hinput : (BitVec.ofBool (a ^^ b)).setWidth 25 <<< 23 =
      (BitVec.ofBool a).setWidth 25 <<< 23 ^^^ (BitVec.ofBool b).setWidth 25 <<< 23 := by
    cases a <;> cases b <;> rfl
  have hswap (w x y z : BitVec 25) : w ^^^ x ^^^ (y ^^^ z) = w ^^^ y ^^^ (x ^^^ z) := by ac_rfl
  rw [crcStep, crcStep, crcStep, ← crcShift_xor, hinput, hswap]

/-- The difference of the registers of two frames over a range. -/
def crcDifference (poly : BitVec 25) (m m' : Memory) (start n : Nat) : BitVec 25 :=
  crcRegister poly m start n ^^^ crcRegister poly m' start n

theorem crcDifference_zero (poly : BitVec 25) (m m' : Memory) (start : Nat) :
    crcDifference poly m m' start 0 = 0#25 := by
  rw [crcDifference, crcRegister_zero, crcRegister_zero, BitVec.xor_self]

theorem crcDifference_succ (poly : BitVec 25) (m m' : Memory) (start n : Nat) :
    crcDifference poly m m' start (n + 1) =
      crcStep poly (crcDifference poly m m' start n) (frameBit m (start + n) ^^ frameBit m' (start + n)) := by
  rw [crcDifference, crcDifference, crcRegister_succ, crcRegister_succ, crcStep_xor]

theorem crcRange_ne_of_difference {poly : BitVec 25} {m m' : Memory} {start n i : Nat} (hi : i < 24)
    (h : (crcDifference poly m m' start n).getLsbD i = true) : crcRange poly m start n ≠ crcRange poly m' start n := by
  intro heq
  have hkept (m : Memory) : (crcRange poly m start n).getLsbD i = (crcRegister poly m start n).getLsbD i := by
    rw [crcRange, BitVec.getLsbD_setWidth, decide_eq_true hi, Bool.true_and]
  rw [crcDifference, BitVec.getLsbD_xor, ← hkept m, ← hkept m', heq, Bool.xor_self] at h
  cases h

/-! ## A single flipped bit -/

/-- `e` is the lowest term of the generator, below bit 24. -/
def LowestTerm (poly : BitVec 25) (e : Nat) : Prop :=
  e < 24 ∧ poly.getLsbD e = true ∧ ∀ i, i < e → poly.getLsbD i = false

/-- Below a set bit, or at it, stands the lowest set bit. -/
theorem exists_lowest_set_bit {R : BitVec 25} {n : Nat} (h : R.getLsbD n = true) :
    ∃ e, e ≤ n ∧ R.getLsbD e = true ∧ ∀ i, i < e → R.getLsbD i = false := by
  induction n using Nat.strongRecOn with
  | ind n ih =>
    by_cases hlower : ∃ i, i < n ∧ R.getLsbD i = true
    · obtain ⟨i, hi, hset⟩ := hlower
      obtain ⟨e, he, hlowest⟩ := ih i hi hset
      exact ⟨e, Nat.le_trans he (Nat.le_of_lt hi), hlowest⟩
    · exact ⟨n, Nat.le_refl n, h, fun i hi => Bool.eq_false_iff.mpr fun hset => hlower ⟨i, hi, hset⟩⟩

/-- A generator of at least two terms has its lowest below bit 24. -/
theorem exists_lowestTerm {poly : BitVec 25} (htop : poly.getLsbD 24 = true) (htwo : poly.toNat ≠ 2 ^ 24) :
    ∃ e, LowestTerm poly e := by
  obtain ⟨e, he, hterm, hlow⟩ := exists_lowest_set_bit htop
  refine ⟨e, Nat.lt_of_le_of_ne he fun heq => htwo ?_, hterm, hlow⟩
  subst heq
  have hpoly : poly = 1#25 <<< 24 := by
    apply BitVec.eq_of_getLsbD_eq
    intro i hi
    rcases Nat.lt_or_ge i 24 with hlt | hge
    · rw [hlow i hlt, BitVec.getLsbD_shiftLeft, decide_eq_true hlt]
      simp
    · obtain rfl : i = 24 := by omega
      exact htop
  rw [hpoly]
  rfl

/-- A difference that a generator with lowest term `e` cannot bring to 0: a bit below 24 is set, and none below `e`. -/
def Alive (e : Nat) (D : BitVec 25) : Prop := (∃ i, i < 24 ∧ D.getLsbD i = true) ∧ ∀ i, i < e → D.getLsbD i = false

/-- A step either selects the generator, whose lowest term then shows, or moves a set bit up. -/
theorem alive_crcShift {poly D : BitVec 25} {e : Nat} (hpoly : LowestTerm poly e) (h : Alive e D) :
    Alive e (crcShift poly D) := by
  obtain ⟨he, hterm, hlow⟩ := hpoly
  obtain ⟨⟨i, hi, hset⟩, hclear⟩ := h
  refine ⟨?_, fun j hj => ?_⟩
  · cases hsel : D.getLsbD 23 with
    | true =>
      refine ⟨e, he, ?_⟩
      rw [crcShift_getLsbD poly D (by omega), hsel, hterm]
      cases e with
      | zero => rfl
      | succ e => rw [Nat.add_sub_cancel, hclear e (Nat.lt_succ_self e), Bool.and_false]; rfl
    | false =>
      have hne : i ≠ 23 := by rintro rfl; cases hset.symm.trans hsel
      refine ⟨i + 1, by omega, ?_⟩
      rw [crcShift_getLsbD poly D (by omega), hsel, Nat.add_sub_cancel, hset, decide_eq_true (by omega)]
      rfl
  · rw [crcShift_getLsbD poly D (by omega), hclear (j - 1) (by omega), hlow j hj, Bool.and_false, Bool.and_false]
    rfl

/-- The flipped bit itself leaves the generator's terms below bit 24. -/
theorem alive_crcStep_flip {poly : BitVec 25} {e : Nat} (hpoly : LowestTerm poly e) :
    Alive e (crcStep poly 0#25 true) := by
  have hbit (i : Nat) (hi : i < 24) : (crcStep poly 0#25 true).getLsbD i = poly.getLsbD i := by
    have hinput : 0#25 ^^^ (BitVec.ofBool true).setWidth 25 <<< 23 = BitVec.twoPow 25 23 := by decide
    have hbelow : ¬ 23 = i - 1 := by omega
    rw [crcStep, hinput, crcShift_getLsbD poly _ (by omega), BitVec.getLsbD_twoPow, BitVec.getLsbD_twoPow,
      decide_eq_false hbelow]
    simp
  obtain ⟨he, hterm, hlow⟩ := hpoly
  exact ⟨⟨e, he, (hbit e he).trans hterm⟩, fun i hi => (hbit i (by omega)).trans (hlow i hi)⟩

/-- Before the flipped bit the difference is 0, and from it on alive. -/
theorem crcDifference_of_flip {poly : BitVec 25} {e : Nat} (hpoly : LowestTerm poly e) {m m' : Memory} {start f : Nat}
    (hflip : frameBit m (start + f) ≠ frameBit m' (start + f))
    (hsame : ∀ b, b ≠ start + f → frameBit m b = frameBit m' b) (n : Nat) :
    (n ≤ f → crcDifference poly m m' start n = 0#25) ∧ (f < n → Alive e (crcDifference poly m m' start n)) := by
  induction n with
  | zero => exact ⟨fun _ => crcDifference_zero poly m m' start, fun h => absurd h (Nat.not_lt_zero f)⟩
  | succ n ih =>
    obtain ⟨hbefore, hafter⟩ := ih
    have hequal (hn : n ≠ f) :
        crcDifference poly m m' start (n + 1) = crcShift poly (crcDifference poly m m' start n) := by
      rw [crcDifference_succ, hsame (start + n) (by omega), Bool.xor_self, crcStep_false]
    refine ⟨fun hle => ?_, fun hlt => ?_⟩
    · rw [hequal (by omega), hbefore (by omega), crcShift_zero]
    · rcases Nat.eq_or_lt_of_le (Nat.lt_succ_iff.mp hlt) with rfl | hlt'
      · have hinput : (frameBit m (start + f) ^^ frameBit m' (start + f)) = true := bne_iff_ne.mpr hflip
        rw [crcDifference_succ, hbefore (Nat.le_refl _), hinput]
        exact alive_crcStep_flip hpoly
      · rw [hequal (by omega)]
        exact alive_crcShift hpoly (hafter hlt')

/-! ## An odd number of flipped bits -/

/-- The number of set bits of a register. -/
def weight (R : BitVec 25) : Nat := (List.range 25).countP fun i => R.getLsbD i

theorem countP_xor_mod_two (l : List Nat) (p q : Nat → Bool) :
    (l.countP fun i => p i ^^ q i) % 2 = (l.countP p + l.countP q) % 2 := by
  induction l with
  | nil => rfl
  | cons a l ih =>
    simp only [List.countP_cons]
    cases p a <;> cases q a <;> simp <;> omega

theorem weight_xor_mod_two (A B : BitVec 25) : weight (A ^^^ B) % 2 = (weight A + weight B) % 2 := by
  simp only [weight, BitVec.getLsbD_xor]
  exact countP_xor_mod_two _ _ _

/-- A shift that loses no bit keeps the weight. -/
theorem weight_shiftLeft_one {R : BitVec 25} (h : R.getLsbD 24 = false) : weight (R <<< 1) = weight R := by
  have hup : weight (R <<< 1) = (List.range 24).countP fun i => R.getLsbD i := by
    rw [weight, List.range_succ_eq_map, List.countP_cons_of_neg (by simp), List.countP_map]
    refine List.countP_congr fun i hi => ?_
    have hlt : i + 1 < 25 := by have := List.mem_range.mp hi; omega
    simp [hlt]
  rw [hup, weight, List.range_succ (n := 24), List.countP_append, List.countP_singleton, h]
  rfl

theorem weight_crcStep_mod_two {poly R : BitVec 25} (hpoly : weight poly % 2 = 0) (h : R.getLsbD 24 = false)
    (b : Bool) :
    weight (crcStep poly R b) % 2 = (weight R + b.toNat) % 2 := by
  have hinput : weight ((BitVec.ofBool b).setWidth 25 <<< 23) = b.toNat := by cases b <;> decide
  have htop : (R ^^^ (BitVec.ofBool b).setWidth 25 <<< 23).getLsbD 24 = false := by
    rw [BitVec.getLsbD_xor, h]
    cases b <;> rfl
  have hsel : weight (if (R ^^^ (BitVec.ofBool b).setWidth 25 <<< 23).getLsbD 23 then poly else 0#25) % 2 = 0 := by
    split
    · exact hpoly
    · rfl
  have hin := weight_xor_mod_two R ((BitVec.ofBool b).setWidth 25 <<< 23)
  rw [crcStep, crcShift_eq, weight_xor_mod_two, weight_shiftLeft_one htop]
  omega

theorem crcDifference_getLsbD_top {poly : BitVec 25} (htop : poly.getLsbD 24 = true) (m m' : Memory) (start n : Nat) :
    (crcDifference poly m m' start n).getLsbD 24 = false := by
  cases n with
  | zero => rw [crcDifference_zero]; rfl
  | succ n =>
    rw [crcDifference_succ, ← BitVec.testBit_toNat]
    exact Nat.testBit_lt_two_pow (crcShift_lt htop _)

/-- The difference has odd weight exactly when the frames differ in an odd number of bits of the range. -/
theorem weight_crcDifference_mod_two {poly : BitVec 25} (htop : poly.getLsbD 24 = true) (hpoly : weight poly % 2 = 0)
    (m m' : Memory) (start n : Nat) :
    weight (crcDifference poly m m' start n) % 2 =
      ((List.range n).countP fun i => frameBit m (start + i) != frameBit m' (start + i)) % 2 := by
  induction n with
  | zero => rw [crcDifference_zero]; rfl
  | succ n ih =>
    have hcount (b : Bool) : (if b then 1 else 0) = b.toNat := by cases b <;> rfl
    rw [crcDifference_succ, weight_crcStep_mod_two hpoly (crcDifference_getLsbD_top htop m m' start n), Nat.add_mod, ih,
      List.range_succ, List.countP_append, List.countP_singleton, hcount, ← Nat.add_mod]

/-! ## Sealing a frame (R64, R148) -/

/-- The frame bits after a word write: the word's own from its bit 31 down, and the others as they were. -/
theorem frameBit_writeWord {m : Memory} (hm : m.wf) (j : Nat) (v : Word) (b : Nat) :
    frameBit (m.writeWord j v) b = if b / 32 = j then v.getLsbD (31 - b % 32) else frameBit m b := by
  split
  case isTrue hb =>
    have hpos : b = 32 * j + b % 32 := by omega
    have hword := readWord_getLsbD (m.writeWord j v) j (b := b % 32) (by omega)
    rw [← hpos, readWord_writeWord hm] at hword
    exact hword.symm
  case isFalse hb => rw [frameBit, read_writeWord_outside hm _ _ (by omega), frameBit]

/-- `FRAME7` with the 24 bits 29 to 6 replaced. -/
def sealedWord (w : Word) (c : BitVec 24) : Word := w &&& 0xC000003F#32 ||| c.setWidth 32 <<< 6

theorem sealedWord_getLsbD (w : Word) (c : BitVec 24) {i : Nat} (hi : i < 32) :
    (sealedWord w c).getLsbD i = if 6 ≤ i ∧ i < 30 then c.getLsbD (i - 6) else w.getLsbD i := by
  have hmask : ∀ i, i < 32 → (0xC000003F#32).getLsbD i = !decide (6 ≤ i ∧ i < 30) := by decide
  rw [sealedWord, BitVec.getLsbD_or, BitVec.getLsbD_and, hmask i hi, BitVec.getLsbD_shiftLeft, BitVec.getLsbD_setWidth]
  split
  case isTrue h =>
    have hlow : ¬ i < 6 := by omega
    have hfits : i - 6 < 32 := by omega
    simp [h, hi, hlow, hfits]
  case isFalse h =>
    have hout : (decide (i < 32) && !decide (i < 6) && (decide (i - 6 < 32) && c.getLsbD (i - 6))) = false := by
      by_cases hlow : i < 6
      · simp [hlow]
      · simp [BitVec.getLsbD_of_ge c (i - 6) (by omega)]
    rw [hout]
    simp [h]

section
variable {m : Memory} (hm : m.wf) (c : BitVec 24)
include hm

theorem crcRange_sealed (poly : BitVec 25) :
    crcRange poly (m.writeWord 7 (sealedWord (m.readWord 7) c)) 0 226 = crcRange poly m 0 226 := by
  refine crcRange_congr fun b _ hb => ?_
  rw [frameBit_writeWord hm]
  split
  case isTrue hword =>
    have hpos : 32 * 7 + b % 32 = b := by omega
    rw [sealedWord_getLsbD _ _ (by omega), if_neg (by omega), readWord_getLsbD m 7 (by omega), hpos]
  case isFalse => rfl

theorem trailerAt_sealed : trailerAt (m.writeWord 7 (sealedWord (m.readWord 7) c)) 226 = c := by
  apply BitVec.eq_of_getLsbD_eq
  intro j hj
  have hpos : 31 - (226 + 23 - j) % 32 - 6 = j := by omega
  rw [trailerAt_getLsbD _ _ hj, frameBit_writeWord hm, if_pos (by omega), sealedWord_getLsbD _ _ (by omega),
    if_pos (by omega), hpos]

end

end Sys2Proof.Machine

/-! PROOF. The obligations of R148. -/

namespace Sys2Proof.Proofs.Detection

open Sys2Proof.Machine

/-- Settles O36: a step without input keeps the register 0. -/
theorem leadingZeroBitsDoNotChangeTheCrc : Obligations.LeadingZeroBitsDoNotChangeTheCrc := by
  refine ⟨fun poly m start n h => ?_, fun poly m start n h => ?_⟩
  · rw [spec_frameBit_eq] at h
    rw [crcRange, crcRange, crcRegister_leading_zero poly h]
  · simp only [spec_frameBit_eq] at h
    rw [crcRange, crcRegister_of_zero_bits poly h]
    rfl

/-- Settles O35: the difference has odd weight, and its bit 24 is clear. -/
theorem oddWeightErrorsAreDetected : Obligations.OddWeightErrorsAreDetected := by
  intro poly m m' start n htop hpoly hodd
  simp only [spec_frameBit_eq] at hodd
  have hweight := (weight_crcDifference_mod_two htop hpoly m m' start n).trans hodd
  have hpos : 0 < weight (crcDifference poly m m' start n) := Nat.pos_of_ne_zero fun h0 => by simp [h0] at hweight
  obtain ⟨i, hi, hset⟩ := List.countP_pos_iff.mp hpos
  have hlt := List.mem_range.mp hi
  have hne : i ≠ 24 := by
    rintro rfl
    cases hset.symm.trans (crcDifference_getLsbD_top htop m m' start n)
  exact crcRange_ne_of_difference (by omega) hset

/-- Settles O33: the difference is alive from the flipped bit on, and the flip reaches no bit of the trailer. -/
theorem singleBitFlipIsDetected : Obligations.SingleBitFlipIsDetected := by
  intro start n s m flip htop htwo hend hlo hhi hflip hsame
  simp only [spec_frameBit_eq] at hflip hsame
  obtain ⟨e, hpoly⟩ := exists_lowestTerm htop htwo
  obtain ⟨f, rfl⟩ := Nat.exists_eq_add_of_le hlo
  obtain ⟨⟨i, hi, hset⟩, -⟩ := (crcDifference_of_flip hpoly hflip hsame n.toNat).2 (by omega)
  have hcrc := crcRange_ne_of_difference hi hset
  refine ⟨hcrc, fun t ht hok => ⟨_, exec_chk_of_le (s := { s with frame := m }) hend, ?_⟩⟩
  have htrailer : trailerAt s.frame (start.toNat + n.toNat) = trailerAt m (start.toNat + n.toNat) :=
    trailerAt_congr fun b hb _ => hsame b (by omega)
  obtain rfl := Host.Outcome.next.inj ((exec_chk_of_le hend).symm.trans ht)
  have hverified :
      crcRange s.params.crcPoly s.frame start.toNat n.toNat = trailerAt s.frame (start.toNat + n.toNat) :=
    Decidable.byContradiction fun hne => by cases hok.symm.trans (if_neg hne)
  exact if_neg fun h => hcrc (hverified.trans (htrailer.trans h.symm))

/-- Settles O34: the sealed word changes the trailer's bits alone, and they are then the checksum's. -/
theorem sealedFrameVerifies : Obligations.SealedFrameVerifies := by
  intro s t c hidle hm hlen hc ht
  have hwrite : t = setFrameWord 7 (sealedWord (s.frame.readWord 7) c) s := by
    rw [ht, hostWrite_of_idle hidle, writeReg_frameIndex, sealedWord]
  have hbuf : (0#8).toNat + (226#9).toNat + 24 ≤ bufBits t := by
    have hfull : bufBits t = 256 := by rw [bufBits, hwrite, setFrameWord_flen, hlen]; rfl
    rw [hfull]
    decide
  have hcalc : crcRange t.params.crcPoly t.frame 0 226 = c := by
    rw [hwrite, hc]
    exact crcRange_sealed hm _ _
  have hrecv : trailerAt t.frame 226 = c := by
    rw [hwrite]
    exact trailerAt_sealed hm c
  exact ⟨_, exec_chk_of_le hbuf, if_pos (hcalc.trans hrecv.symm), hcalc, hrecv⟩

end Sys2Proof.Proofs.Detection
